-- ==== Sys2Proof/Word.lean ====
section
/-!
DEFINITION. Word.lean: the words the engine's ports and its wire carry (30_encoding.md R100), and the numbers its registers
hold. Nothing is split into bytes (20_memory.md R65).
-/

namespace Sys2Proof

/-- A number of one of the forty GPIO pins (10_state.md R21, 20_memory.md R61): 0 to 39 and nothing else. -/
abbrev Pin := Fin 40

/-- `S.throttle`, and the `value` field of a frame: 11 bits, unsigned (10_state.md R24, 41_frame_encoder.md R145). -/
abbrev Value := BitVec 11

/-- A DShot frame (30_encoding.md R90). -/
abbrev FrameWord := BitVec 16

/-- The command word (30_encoding.md R102). -/
abbrev CmdWord := BitVec 32

/-- The response word (30_encoding.md R107). -/
abbrev RspWord := BitVec 32

/-- One word presented at one of the engine's ports. `cmd` and `strobe` are the inputs of 30_encoding.md R101 and R109,
the strobe vector being `{reset, tick}`. `frame` is no input of the hardware: FRAME is an output format, and a word
here stands for the step in which the engine sends that frame (log 1). -/
inductive PortWord where
  | cmd    (w : CmdWord)
  | strobe (w : BitVec 2)
  | frame  (w : FrameWord)
deriving DecidableEq, Repr

end Sys2Proof
end

