-- ==== Sys2Proof/Syntax.lean ====
section
/-!
DEFINITION. Syntax.lean: the enumerations of 30_encoding.md R96 and R97, the operands, and one constructor of `Instr` for
every row of spec/opcode_table.json. Operands are mathematical integers and enumerations (00_scope.md R10, D9).
-/

namespace Sys2Proof

/-- `Protocol` (00_scope.md R3, 30_encoding.md R96). -/
inductive Protocol where
  | pwm
  | dshot150
  | dshot300
  | dshot600
deriving DecidableEq, Repr

/-- The three DShot speed grades: the domain of `timing` and `sendDShot` (40_protocol_timing.md R134,
42_signal_transmitter.md R158), so that neither can be asked about PWM. -/
inductive Grade where
  | d150
  | d300
  | d600
deriving DecidableEq, Repr

/-- `Direction` (10_state.md R25, 30_encoding.md R97). -/
inductive Direction where
  | forward
  | reverse
  | brake
deriving DecidableEq, Repr

/-- The three special commands (43_special_commands.md R170). -/
inductive SpecialCommand where
  | motorStop
  | spinDirectionNormal
  | command21
deriving DecidableEq, Repr

/-- The `protocol` argument of `configure`: one of the four names, or a code that stands for an unrecognized name
(30_encoding.md R104). -/
inductive ProtocolArg where
  | known        (p : Protocol)
  | unrecognized (code : Nat)
deriving DecidableEq, Repr

/-- The `dir` argument of `setDirection` (30_encoding.md R104). -/
inductive DirectionArg where
  | known        (d : Direction)
  | unrecognized (code : Nat)
deriving DecidableEq, Repr

/-- The instructions (00_scope.md R4): the seven host operations, the two strobes, and the four rows of the output format
FRAME. -/
inductive Instr where
  | getStatus
  | configure (pin : Option Int) (protocol : Option ProtocolArg)
  | setThrottle (value : Int)
  | arm
  | disarm
  | setDirection (dir : DirectionArg)
  | brake
  | tick
  | reset
  | frame (value : Value)
  | frameMotorStop
  | frameSpinDirectionNormal
  | frameCommand21
deriving DecidableEq, Repr

end Sys2Proof
end

