-- ==== Sys2Proof/Config.lean ====
section
/-!
DEFINITION. Config.lean: the parameters of 00_scope.md R9 under their names there, what an implementation fixes, and the
free values.
-/

namespace Sys2Proof.Config

/-- `PIN_MIN`, `PIN_MAX`. -/
def pinMin : Int := 0
def pinMax : Int := 39

/-- `PIN_DEFAULT`, `PROTOCOL_DEFAULT`, `DIRECTION_DEFAULT`. -/
def pinDefault : Pin := 5
def protocolDefault : Protocol := .pwm
def directionDefault : Direction := .forward

/-- `PWM_MIN`, `PWM_MAX`, `PWM_PERIOD_US`, `PWM_IDLE`, in microseconds. -/
def pwmMin : Nat := 1000
def pwmMax : Nat := 2000
def pwmPeriodUs : Nat := 20000
def pwmIdle : Nat := 1000

/-- `DSHOT_MIN`, `DSHOT_MAX`, `DSHOT_CMD_MAX`, `DSHOT_THROTTLE_MIN`, `DSHOT_IDLE`, in raw units. -/
def dshotMin : Nat := 0
def dshotMax : Nat := 2047
def dshotCmdMax : Nat := 47
def dshotThrottleMin : Nat := 48
def dshotIdle : Nat := 48

/-- `BIT_PERIOD_NS` (40_protocol_timing.md R131). -/
def bitPeriodNs : Grade → Nat
  | .d150 => 6667
  | .d300 => 3333
  | .d600 => 1667

/-- `HIGH_RATIO_ONE` and `HIGH_RATIO_ZERO` as numerator and denominator (40_protocol_timing.md R132). -/
def highRatioOne : Nat × Nat := (3, 4)
def highRatioZero : Nat × Nat := (3, 8)

/-- `FRAME_BITS`. -/
def frameBits : Nat := 16

/-- `CMD_MOTOR_STOP`, `CMD_SPIN_DIRECTION_NORMAL`, `CMD_SPIN_DIRECTION_REVERSED` (43_special_commands.md R170). -/
def commandValue : SpecialCommand → Value
  | .motorStop => 0#11
  | .spinDirectionNormal => 20#11
  | .command21 => 21#11

/-- The named retry policy of a special command (43_special_commands.md R171): a count, a delay between sends in
milliseconds, and whether the last send is followed by the delay too. -/
structure RetryPolicy where
  repeats : Nat
  gapMs : Nat
  trailingGap : Bool
deriving DecidableEq, Repr

/-- `CMD_REPEAT`, `CMD_GAP_MS`, `CMD_TRAILING_GAP`. -/
def retryPolicy : RetryPolicy := { repeats := 10, gapMs := 1, trailingGap := false }

/-- `TICK_PERIOD_MS`: a nominal label, read by no rule (45_control_loop.md R214). -/
def tickPeriodMs : Nat := 20

/-- The time base (D2): nanoseconds in a microsecond and in a millisecond. -/
def nsPerUs : Nat := 1000
def nsPerMs : Nat := 1000000

/-- `USABLE_PINS` (93_implementation_defined.md U11), default all of [0,39]: the engine accepts every pin, and no rule reads
this. -/
def usablePins : List Pin := List.finRange 40

/-- FREE VALUE. The outcome of an `NvSave` that `State.saveAnswers` does not give: true for kept, false for lost
(20_memory.md R69, U8; log 4). Applied to `State.drawCount`. -/
opaque saveKept : Nat → Bool

/-- OPEN parameters (D34, D35; log 14). No rule reads one, and nothing is known of their values. -/
opaque clkPeriodNs : Nat
opaque nvSaveNs : Nat
opaque cmdLatencyNs : Nat
opaque gpioCallNs : Nat

end Sys2Proof.Config
end

