-- ==== Sys2Proof/Machine/FrameEncoder.lean ====
section
/-!
DEFINITION. Machine/FrameEncoder.lean: the frame builder of 41_frame_encoder.md, pure functions of an 11-bit value. The
argument's type makes an out-of-range value unwritable (R145, U1).
-/

namespace Sys2Proof.Machine

/-- `packet = value << 1`, held in 16 bits: value in [11:1], telemetry 0 in bit 0 (R141). -/
def packet (v : Value) : BitVec 16 :=
  v.setWidth 16 <<< 1

/-- `n` rounds of the fold of R142 and R143: XOR in the low nibble of `data`, then shift `data` right by 4. -/
def crcRounds : Nat → BitVec 16 → BitVec 4 → BitVec 4
  | 0, _, csum => csum
  | n + 1, data, csum => crcRounds n (data >>> 4) (csum ^^^ data.setWidth 4)

/-- The checksum: three rounds over the packet (R142). -/
def crc4 (v : Value) : BitVec 4 :=
  crcRounds 3 (packet v) 0#4

/-- `frame = (packet << 4) | crc` (R143; the layout of 30_encoding.md R90, conflict C1). -/
def encodeFrame (v : Value) : FrameWord :=
  packet v <<< 4 ||| (crc4 v).setWidth 16

/-- The `value` field, bits [15:5] (30_encoding.md R90). -/
def frameValue (f : FrameWord) : Value :=
  f.extractLsb' 5 11

/-- The `telem` bit, bit 4 (30_encoding.md R90, R94). -/
def frameTelem (f : FrameWord) : Bool :=
  f.getLsbD 4

/-- The `crc` field, bits [3:0] (30_encoding.md R90). -/
def frameCrc (f : FrameWord) : BitVec 4 :=
  f.extractLsb' 0 4

/-- The XOR of the frame's four nibbles, the check an ESC applies (41_frame_encoder.md R144 (b)). -/
def frameNibbleXor (f : FrameWord) : BitVec 16 :=
  (f ^^^ f >>> 4 ^^^ f >>> 8 ^^^ f >>> 12) &&& 0xF#16

end Sys2Proof.Machine
end

