-- ==== Sys2Proof/WellFormed.lean ====
section
/-!
DEFINITION. WellFormed.lean: which instructions the encodings can carry (30_encoding.md R104, R105, R114). The abstract
operations accept every integer; these bounds are those of the CMD fields, which the host saturates to (R104).
-/

namespace Sys2Proof

/-- `pin8` is a signed 8-bit field. -/
def pinFits (pin : Int) : Bool :=
  decide (-128 ≤ pin) && decide (pin ≤ 127)

/-- `imm24` is a signed 24-bit field. -/
def valueFits (value : Int) : Bool :=
  decide (-8388608 ≤ value) && decide (value ≤ 8388607)

/-- Codes 4 to 255 of `proto8` stand for an unrecognized name; 0 to 3 are the variants. -/
def ProtocolArg.wellFormed : ProtocolArg → Bool
  | .known _ => true
  | .unrecognized code => decide (4 ≤ code) && decide (code ≤ 255)

/-- Codes 3 to 255 of `dir8` stand for an unrecognized direction; 0 to 2 are the variants. -/
def DirectionArg.wellFormed : DirectionArg → Bool
  | .known _ => true
  | .unrecognized code => decide (3 ≤ code) && decide (code ≤ 255)

/-- The values whose frame is a row of its own (30_encoding.md R114): the generic FRAME row does not spell them. -/
def isSpecialValue (v : Value) : Bool :=
  v == 0#11 || v == 20#11 || v == 21#11

/-- The instruction has an encoding. -/
def Instr.wellFormed : Instr → Bool
  | .getStatus => true
  | .configure pin protocol =>
      (match pin with
        | none => true
        | some p => pinFits p) &&
      (match protocol with
        | none => true
        | some a => a.wellFormed)
  | .setThrottle value => valueFits value
  | .arm => true
  | .disarm => true
  | .setDirection dir => dir.wellFormed
  | .brake => true
  | .tick => true
  | .reset => true
  | .frame v => !isSpecialValue v
  | .frameMotorStop => true
  | .frameSpinDirectionNormal => true
  | .frameCommand21 => true

end Sys2Proof
end

