-- ==== Sys2Proof/Decode.lean ====
section
/-!
DEFINITION. Decode.lean: the decoder of every port word, total, rejecting by name, and after it the encoder, both written from
the tables of 30_encoding.md R90, R96, R97, R102 to R106, R109 and R114.
-/

namespace Sys2Proof

/-- Why a port word is no instruction. -/
inductive DecodeError where
  /-- CMD with `op` 0x0 or 0x8 to 0xF (R106). -/
  | reservedOpcode
  /-- CMD with a defined `op` and a nonzero must-be-zero bit (R106). -/
  | mustBeZero
  /-- STROBE 00: no event (R109). -/
  | noEvent
  /-- STROBE 11: never presented (R109). -/
  | bothStrobes
  /-- FRAME with `telem = 1`: never emitted (R94, R106). -/
  | telemetrySet
  /-- FRAME whose `crc` is not the checksum of its value: never emitted (R106). -/
  | badChecksum
deriving DecidableEq, Repr

/-! ### Codes (R96, R97) -/

def Protocol.code : Protocol → BitVec 2
  | .pwm => 0#2
  | .dshot150 => 1#2
  | .dshot300 => 2#2
  | .dshot600 => 3#2

def Direction.code : Direction → BitVec 2
  | .forward => 0#2
  | .reverse => 1#2
  | .brake => 2#2

/-- `proto8`: codes 0 to 3 are the variants, 4 to 255 an unrecognized name (R104). -/
def protocolArgOfCode (code : BitVec 8) : ProtocolArg :=
  if code = 0#8 then .known .pwm
  else if code = 1#8 then .known .dshot150
  else if code = 2#8 then .known .dshot300
  else if code = 3#8 then .known .dshot600
  else .unrecognized code.toNat

/-- `dir8`: codes 0 to 2 are the variants, 3 to 255 are not recognized (R104). -/
def directionArgOfCode (code : BitVec 8) : DirectionArg :=
  if code = 0#8 then .known .forward
  else if code = 1#8 then .known .reverse
  else if code = 2#8 then .known .brake
  else .unrecognized code.toNat

/-! ### Decoder -/

/-- The bits of `mask` are all zero in `w`. -/
def bitsClear (w mask : CmdWord) : Bool :=
  w &&& mask == 0#32

/-- `i` if the must-be-zero bits of the layout are zero (R105, R106). -/
def checked (w mask : CmdWord) (i : Instr) : Except DecodeError Instr :=
  if bitsClear w mask then .ok i else .error .mustBeZero

/-- Operands of `configure`: `P` guards `pin8`, `Q` guards `proto8`; an unguarded field is ignored (R104). -/
def decodeConfigure (w : CmdWord) : Instr :=
  .configure
    (if w.getLsbD 27 then some (w.extractLsb' 0 8).toInt else none)
    (if w.getLsbD 26 then some (protocolArgOfCode (w.extractLsb' 8 8)) else none)

/-- The CMD port: the opcode map of R103 over the layouts of R105. -/
def decodeCmd (w : CmdWord) : Except DecodeError Instr :=
  let op := w.extractLsb' 28 4
  if op = 0x1#4 then checked w 0x0FFFFFFF#32 .getStatus
  else if op = 0x2#4 then checked w 0x03FF0000#32 (decodeConfigure w)
  else if op = 0x3#4 then checked w 0x0F000000#32 (.setThrottle (w.extractLsb' 0 24).toInt)
  else if op = 0x4#4 then checked w 0x0FFFFFFF#32 .arm
  else if op = 0x5#4 then checked w 0x0FFFFFFF#32 .disarm
  else if op = 0x6#4 then checked w 0x0FFFFF00#32 (.setDirection (directionArgOfCode (w.extractLsb' 0 8)))
  else if op = 0x7#4 then checked w 0x0FFFFFFF#32 .brake
  else .error .reservedOpcode

/-- The strobe vector `{reset, tick}` (R109). -/
def decodeStrobe (w : BitVec 2) : Except DecodeError Instr :=
  if w = 0b01#2 then .ok .tick
  else if w = 0b10#2 then .ok .reset
  else if w = 0b00#2 then .error .noEvent
  else .error .bothStrobes

/-- The row of a frame value: the three fixed rows of R114 before the generic one. -/
def frameInstr (v : Value) : Instr :=
  if v = 0#11 then .frameMotorStop
  else if v = 20#11 then .frameSpinDirectionNormal
  else if v = 21#11 then .frameCommand21
  else .frame v

/-- A FRAME word (R90), if it is one the block can emit (R94, R106). -/
def decodeFrame (f : FrameWord) : Except DecodeError Instr :=
  if Machine.frameTelem f then .error .telemetrySet
  else if Machine.frameCrc f = Machine.crc4 (Machine.frameValue f) then .ok (frameInstr (Machine.frameValue f))
  else .error .badChecksum

/-- The decoder: the port fixes the format, and no mode changes it (R112). -/
def decode : PortWord → Except DecodeError Instr
  | .cmd w => decodeCmd w
  | .strobe w => decodeStrobe w
  | .frame f => decodeFrame f

/-! ### Encoder -/

/-- `proto8` of a protocol argument (R104). -/
def ProtocolArg.code : ProtocolArg → BitVec 8
  | .known p => p.code.setWidth 8
  | .unrecognized code => BitVec.ofNat 8 code

/-- `dir8` of a direction argument (R104). -/
def DirectionArg.code : DirectionArg → BitVec 8
  | .known d => d.code.setWidth 8
  | .unrecognized code => BitVec.ofNat 8 code

/-- A field of a 32-bit word with its lowest bit at bit `lo`. -/
def fieldAt {n : Nat} (lo : Nat) (v : BitVec n) : BitVec 32 :=
  v.setWidth 32 <<< lo

/-- `0010 P Q 00 00000000 proto8 pin8` (R105); the field of an absent argument is written as zeros. -/
def encodeConfigure (pin : Option Int) (protocol : Option ProtocolArg) : CmdWord :=
  let pin8 : BitVec 8 := match pin with
    | none => 0#8
    | some p => BitVec.ofInt 8 p
  let proto8 : BitVec 8 := match protocol with
    | none => 0#8
    | some a => a.code
  fieldAt 28 0x2#4 ||| fieldAt 27 (BitVec.ofBool pin.isSome) ||| fieldAt 26 (BitVec.ofBool protocol.isSome) |||
    fieldAt 8 proto8 ||| fieldAt 0 pin8

/-- The word of an instruction, at its port. -/
def encode : Instr → PortWord
  | .getStatus => .cmd (fieldAt 28 0x1#4)
  | .configure pin protocol => .cmd (encodeConfigure pin protocol)
  | .setThrottle value => .cmd (fieldAt 28 0x3#4 ||| fieldAt 0 (BitVec.ofInt 24 value))
  | .arm => .cmd (fieldAt 28 0x4#4)
  | .disarm => .cmd (fieldAt 28 0x5#4)
  | .setDirection dir => .cmd (fieldAt 28 0x6#4 ||| fieldAt 0 dir.code)
  | .brake => .cmd (fieldAt 28 0x7#4)
  | .tick => .strobe 0b01#2
  | .reset => .strobe 0b10#2
  | .frame v => .frame (Machine.encodeFrame v)
  | .frameMotorStop => .frame (Machine.encodeFrame (Config.commandValue .motorStop))
  | .frameSpinDirectionNormal => .frame (Machine.encodeFrame (Config.commandValue .spinDirectionNormal))
  | .frameCommand21 => .frame (Machine.encodeFrame (Config.commandValue .command21))

/-! ### Words as the opcode table numbers them -/

/-- The port word of a table word of `nbits` bits (whole bytes): 8 for a strobe, 16 for a frame, 32 for a command. None where
no port carries the word: more bits than the port has, or another width (log 17). -/
def tablePortWord (nbits w : Nat) : Option PortWord :=
  if nbits = 8 then (if w < 4 then some (.strobe (BitVec.ofNat 2 w)) else none)
  else if nbits = 16 then (if w < 65536 then some (.frame (BitVec.ofNat 16 w)) else none)
  else if nbits = 32 then (if w < 4294967296 then some (.cmd (BitVec.ofNat 32 w)) else none)
  else none

/-- The instruction the decoder reads from a table word, none where it refuses. -/
def decodeTableWord (nbits w : Nat) : Option Instr :=
  match tablePortWord nbits w with
  | none => none
  | some p =>
    match decode p with
    | .ok i => some i
    | .error _ => none

end Sys2Proof
end

