-- ==== Sys2Proof/Machine/State.lean ====
section
/-!
DEFINITION. Machine/State.lean: the state of the block, `S`, `NV`, `G` and `W` (10_state.md, 00_scope.md R17), the response
port, and the three fields that hold what the environment will do. Plain data throughout. The reasons a step can stop.
-/

namespace Sys2Proof.Machine

/-- Pin mode in the shadow `G` (10_state.md R35). -/
inductive PinMode where
  | unknown
  | input
  | output
deriving DecidableEq, Repr

/-- Pin level in the shadow `G` (10_state.md R35). -/
inductive PinLevel where
  | unknown
  | low
  | high
deriving DecidableEq, Repr

/-- What the engine last did to one pin (10_state.md R35). -/
structure PinCell where
  mode : PinMode
  level : PinLevel
deriving DecidableEq, Repr

/-- The mode a `GpioMode` call can ask for (00_scope.md R13). -/
inductive DriveMode where
  | input
  | output
deriving DecidableEq, Repr

/-- The level a `GpioWrite` call can ask for (00_scope.md R13). -/
inductive DriveLevel where
  | low
  | high
deriving DecidableEq, Repr

/-- One event of the wire trace `W` (10_state.md R36); `wait` is in nanoseconds. -/
inductive WireEvent where
  | mode  (p : Pin) (m : DriveMode)
  | level (p : Pin) (l : DriveLevel)
  | wait  (ns : Nat)
  | critEnter
  | critExit
deriving DecidableEq, Repr

/-- A value in a cell of the store: an integer or a string (10_state.md R34; log 10). -/
inductive NvValue where
  | int (v : Int)
  | str (s : String)
deriving DecidableEq, Repr

/-- The three keys of the store (20_memory.md R62). -/
inductive NvKey where
  | pin
  | protocol
  | direction
deriving DecidableEq, Repr

/-- The non-volatile store `NV`: each key holds `None` or `Some v` (10_state.md R34). -/
structure NvStore where
  pin : Option NvValue
  protocol : Option NvValue
  direction : Option NvValue
deriving DecidableEq, Repr

/-- `EscState`, the aggregate `S` (10_state.md R20). `direction_supported` is a function of it, no field (R26). -/
structure EscState where
  pin : Pin
  protocol : Protocol
  armed : Bool
  throttle : Value
  direction : Direction
deriving DecidableEq, Repr

/-- The pin space `G`: pins strictly rising, no cell equal to what an unlisted pin reads as (log 13). -/
abbrev PinSpace := List (Pin × PinCell)

/-- The whole state. `esc`, `nv`, `shadow`, `wire` are the spec's `S`, `NV`, `G`, `W`; `response` is the RSP port after the
step just taken (log 5). The last three are the model's own: the input words still to come (log 3), the store's answers to
the saves still to come, and the count of draws taken from `Config.saveKept` (log 4). -/
structure State where
  esc : EscState
  nv : NvStore
  shadow : PinSpace
  wire : List WireEvent
  response : Option RspWord
  inputs : List PortWord
  saveAnswers : List Bool
  drawCount : Nat
deriving DecidableEq, Repr

/-- Why the machine stops with a fault. -/
inductive Fault where
  /-- Raised by `tick`: `sendPwm` would be called with a width outside [1000,2000] (42_signal_transmitter.md R152, U2). No
  state a run reaches raises it (10_state.md R27 INV6). Safe: the model stops where the spec gives no effect. -/
  | pwmWidthOutOfRange
deriving DecidableEq, Repr

/-- Why the machine refuses a step. -/
inductive Refusal where
  /-- Raised by `exec` for an instruction that has no meaning yet. Safe. No arm raises it. -/
  | notModelled (mnemonic : String)
  /-- Raised by `step` on STROBE 11, which is "never presented" (30_encoding.md R109). Safe. -/
  | bothStrobes
  /-- Raised by `step` on a FRAME word with `telem = 1` or a wrong checksum, which is "never emitted" (30_encoding.md R106,
  U19). Safe. -/
  | frameNeverEmitted
deriving DecidableEq, Repr

/-- The machine right after the reset of a device never configured (10_state.md R40; log 11): every key of the store blank,
nothing presented, no answer of the store given. -/
def State.reset : State where
  esc := { pin := 5, protocol := .pwm, armed := false, throttle := 1000#11, direction := .forward }
  nv := { pin := none, protocol := none, direction := none }
  shadow := [(5, { mode := .output, level := .low })]
  wire := [.mode 5 .output, .level 5 .low]
  response := none
  inputs := []
  saveAnswers := []
  drawCount := 0

end Sys2Proof.Machine
end

