-- ==== Sys2Proof/Machine/Flags.lean ====
section
/-!
DEFINITION. Machine/Flags.lean: the two flag-like values (10_state.md R31), the result codes, and the response word with the
fields a host reads from it (30_encoding.md R107, R108).
-/

namespace Sys2Proof.Machine

/-- The speed grade of a DShot protocol; PWM has none (40_protocol_timing.md R134). -/
def gradeOf : Protocol → Option Grade
  | .pwm => none
  | .dshot150 => some .d150
  | .dshot300 => some .d300
  | .dshot600 => some .d600

/-- `direction_supported(S) = (S.protocol != PWM)` (10_state.md R26). -/
def EscState.directionSupported (e : EscState) : Bool :=
  e.protocol != .pwm

/-- Result codes (60_exceptions.md R221). -/
inductive ResultCode where
  | ok
  | validationError
  | capabilityError
  | notArmedError
deriving DecidableEq, Repr

def ResultCode.bits : ResultCode → BitVec 2
  | .ok => 0#2
  | .validationError => 1#2
  | .capabilityError => 2#2
  | .notArmedError => 3#2

/-- `RSP`, each field at the bits of 30_encoding.md R107; bits 29:27 and 15:12 are reserved, zero. -/
def rspWord (c : ResultCode) (e : EscState) : RspWord :=
  fieldAt 30 c.bits ||| fieldAt 16 e.throttle ||| fieldAt 11 (BitVec.ofBool e.directionSupported) |||
    fieldAt 9 e.direction.code ||| fieldAt 8 (BitVec.ofBool e.armed) ||| fieldAt 6 e.protocol.code |||
    fieldAt 0 (BitVec.ofNat 6 e.pin.val)

/-! The fields of a response word, as the host reads them (R107, R108). -/

def rspCode (r : RspWord) : BitVec 2 := r.extractLsb' 30 2
def rspThrottle (r : RspWord) : BitVec 11 := r.extractLsb' 16 11
def rspDirectionSupported (r : RspWord) : Bool := r.getLsbD 11
def rspDirection (r : RspWord) : BitVec 2 := r.extractLsb' 9 2
def rspArmed (r : RspWord) : Bool := r.getLsbD 8
def rspProtocol (r : RspWord) : BitVec 2 := r.extractLsb' 6 2
def rspPin (r : RspWord) : BitVec 6 := r.extractLsb' 0 6
/-- The two reserved fields, bits 29:27 and 15:12, in place. -/
def rspReserved (r : RspWord) : BitVec 32 := r &&& 0x3800F000#32

end Sys2Proof.Machine
end

