-- ==== Sys2Proof/Machine/Operands.lean ====
section
/-!
DEFINITION. Machine/Operands.lean: every operand form of the operations: the pin and protocol arguments of `configure` with
their tests, the throttle-range mapper, and the name strings the store carries.
-/

namespace Sys2Proof.Machine

/-! ### Integers (00_scope.md R11) -/

/-- `clamp(v, lo, hi)`, on all integers. -/
def clamp (v lo hi : Int) : Int :=
  if v < lo then lo else if hi < v then hi else v

/-! ### The per-protocol policy (44_esc_controller.md R181) -/

/-- `range(protocol)`. -/
def throttleRange : Protocol → Nat × Nat
  | .pwm => (Config.pwmMin, Config.pwmMax)
  | .dshot150 => (Config.dshotMin, Config.dshotMax)
  | .dshot300 => (Config.dshotMin, Config.dshotMax)
  | .dshot600 => (Config.dshotMin, Config.dshotMax)

/-- `idle(protocol)`. -/
def idleThrottle : Protocol → Value
  | .pwm => BitVec.ofNat 11 Config.pwmIdle
  | .dshot150 => BitVec.ofNat 11 Config.dshotIdle
  | .dshot300 => BitVec.ofNat 11 Config.dshotIdle
  | .dshot600 => BitVec.ofNat 11 Config.dshotIdle

/-- What `setThrottle(value)` stores: the value clamped to the active range, in the 11 bits that hold it (R186). -/
def clampThrottle (p : Protocol) (v : Int) : Value :=
  BitVec.ofInt 11 (clamp v (throttleRange p).1 (throttleRange p).2)

/-! ### Arguments of `configure` (44_esc_controller.md R183) -/

/-- The pin an integer names, none outside [0,39]. -/
def pinOfInt (v : Int) : Option Pin :=
  if h : Config.pinMin ≤ v ∧ v ≤ Config.pinMax then
    some ⟨v.toNat, by unfold Config.pinMin Config.pinMax at h; omega⟩
  else none

/-- The `pin` test: an absent argument passes. -/
def validatePin : Option Int → Except ResultCode (Option Pin)
  | none => .ok none
  | some v =>
    match pinOfInt v with
    | some p => .ok (some p)
    | none => .error .validationError

/-- The `protocol` test: an absent argument passes. -/
def validateProtocol : Option ProtocolArg → Except ResultCode (Option Protocol)
  | none => .ok none
  | some (.known p) => .ok (some p)
  | some (.unrecognized _) => .error .validationError

/-! ### Names (30_encoding.md R96, R97) -/

def protocolName : Protocol → String
  | .pwm => "PWM"
  | .dshot150 => "DSHOT150"
  | .dshot300 => "DSHOT300"
  | .dshot600 => "DSHOT600"

def directionName : Direction → String
  | .forward => "FORWARD"
  | .reverse => "REVERSE"
  | .brake => "BRAKE"

/-- Name matching is exact and case-sensitive (R96). -/
def protocolOfName (n : String) : Option Protocol :=
  if n = "PWM" then some .pwm
  else if n = "DSHOT150" then some .dshot150
  else if n = "DSHOT300" then some .dshot300
  else if n = "DSHOT600" then some .dshot600
  else none

def directionOfName (n : String) : Option Direction :=
  if n = "FORWARD" then some .forward
  else if n = "REVERSE" then some .reverse
  else if n = "BRAKE" then some .brake
  else none

end Sys2Proof.Machine
end

