-- ==== Sys2Proof/Machine/Ops.lean ====
section
/-!
DEFINITION. Machine/Ops.lean: the named operations every meaning is made of: the pin space `G`, the wire trace `W` and the GPIO
primitives, the store `NV` with its draws, the response port, reporting an error (the block's one exception mechanism), and
taking an input word.
-/

namespace Sys2Proof.Machine

/-! ### The pin space `G` (10_state.md R35) -/

/-- What a pin the engine never touched reads as. -/
def unknownCell : PinCell := { mode := .unknown, level := .unknown }

/-- The cell of a pin. -/
def PinSpace.read : PinSpace → Pin → PinCell
  | [], _ => unknownCell
  | (q, c) :: rest, p => if q = p then c else PinSpace.read rest p

/-- A cell in front of a tail of higher pins, left out if it reads as an unlisted pin does. -/
def PinSpace.put (p : Pin) (c : PinCell) (rest : PinSpace) : PinSpace :=
  if c = unknownCell then rest else (p, c) :: rest

/-- Write the cell of a pin, keeping the canonical form. -/
def PinSpace.write : PinSpace → Pin → PinCell → PinSpace
  | [], p, c => PinSpace.put p c []
  | (q, d) :: rest, p, c =>
    if p < q then PinSpace.put p c ((q, d) :: rest)
    else if p = q then PinSpace.put p c rest
    else (q, d) :: PinSpace.write rest p c

/-- The canonical form: pins strictly rising, no entry equal to what an unlisted pin reads as. -/
def PinSpace.wf (g : PinSpace) : Bool :=
  decide ((g.map Prod.fst).Pairwise (· < ·)) && g.all (fun e => e.2 != unknownCell)

def DriveMode.toMode : DriveMode → PinMode
  | .input => .input
  | .output => .output

def DriveLevel.toLevel : DriveLevel → PinLevel
  | .low => .low
  | .high => .high

/-- The update of `G` that goes with one wire event (20_memory.md R66, 10_state.md R35). -/
def PinSpace.record (g : PinSpace) : WireEvent → PinSpace
  | .mode p m => g.write p { g.read p with mode := m.toMode }
  | .level p l => g.write p { g.read p with level := l.toLevel }
  | .wait _ => g
  | .critEnter => g
  | .critExit => g

/-- `G` as a function of the trace: "fold the events" (10_state.md R35). -/
def PinSpace.replay (w : List WireEvent) : PinSpace :=
  w.foldl PinSpace.record []

/-! ### The wire trace `W` and the primitives (00_scope.md R13, 20_memory.md R66) -/

/-- Append events to `W`, in order, each with its update of `G`. -/
def State.emit (s : State) (es : List WireEvent) : State :=
  { s with wire := s.wire ++ es, shadow := es.foldl PinSpace.record s.shadow }

/-- `GpioMode(p, m)`. -/
def State.gpioMode (s : State) (p : Pin) (m : DriveMode) : State :=
  s.emit [.mode p m]

/-- `GpioWrite(p, l)`. -/
def State.gpioWrite (s : State) (p : Pin) (l : DriveLevel) : State :=
  s.emit [.level p l]

/-- The nominal time of one event in nanoseconds: only `Wait` takes any (42_signal_transmitter.md R161). -/
def WireEvent.duration : WireEvent → Nat
  | .mode _ _ => 0
  | .level _ _ => 0
  | .wait ns => ns
  | .critEnter => 0
  | .critExit => 0

/-- The nominal duration of a stretch of the trace (70_reset_and_hazards.md R280). -/
def traceDuration (w : List WireEvent) : Nat :=
  (w.map WireEvent.duration).sum

/-! ### The store `NV` (20_memory.md R67 to R69) -/

/-- `NvLoad(key)`. -/
def NvStore.load (nv : NvStore) : NvKey → Option NvValue
  | .pin => nv.pin
  | .protocol => nv.protocol
  | .direction => nv.direction

/-- `NV[key] <- Some v`. -/
def NvStore.keep (nv : NvStore) (k : NvKey) (v : NvValue) : NvStore :=
  match k with
  | .pin => { nv with pin := some v }
  | .protocol => { nv with protocol := some v }
  | .direction => { nv with direction := some v }

/-- Whether the next save is kept: the store's next answer if the environment gives one, else a free value (log 4). -/
def State.nextSaveKept (s : State) : Bool :=
  match s.saveAnswers with
  | b :: _ => b
  | [] => Config.saveKept s.drawCount

/-- The draw is used up. -/
def State.drawn (s : State) : State :=
  match s.saveAnswers with
  | _ :: rest => { s with saveAnswers := rest }
  | [] => { s with drawCount := s.drawCount + 1 }

/-- `NvSave(key, v)`: kept or lost by one draw, and the engine is not told which (R69). -/
def State.nvSave (s : State) (k : NvKey) (v : NvValue) : State :=
  { s.drawn with nv := if s.nextSaveKept then s.nv.keep k v else s.nv }

/-! ### The response port, errors and success (00_scope.md R14, 60_exceptions.md R225, R228) -/

/-- The step's response word: its code and a snapshot of `S` (30_encoding.md R107). -/
def State.respond (s : State) (c : ResultCode) : State :=
  { s with response := some (rspWord c s.esc) }

/-- A step that returns nothing to the host (60_exceptions.md R243). -/
def State.silent (s : State) : State :=
  { s with response := none }

/-- `raise <Error>`: the one way an operation reports an error. It saves nothing and transfers nowhere: the response carries
the code, and everything else is as it was (60_exceptions.md R228). -/
def State.raise (s : State) (c : ResultCode) : Host.Outcome State Fault Refusal :=
  .next (s.respond c)

/-- `return OK`, the way back to "between steps" (60_exceptions.md R229). -/
def State.returnOk (s : State) : Host.Outcome State Fault Refusal :=
  .next (s.respond .ok)

/-! ### Taking an input (00_scope.md R15) -/

/-- The next port word and the state with it taken; none while the environment presents nothing. -/
def State.fetch (s : State) : Option (PortWord × State) :=
  match s.inputs with
  | [] => none
  | w :: rest => some (w, { s with inputs := rest })

/-- A port word that is no instruction. A CMD word is answered with ValidationError, nothing changed (30_encoding.md R106);
STROBE 00 is no event (R109); the rest is never there. -/
def rejectWord (r : DecodeError) (s : State) : Host.Outcome State Fault Refusal :=
  match r with
  | .reservedOpcode => s.raise .validationError
  | .mustBeZero => s.raise .validationError
  | .noEvent => .next s
  | .bothStrobes => .refused .bothStrobes
  | .telemetrySet => .refused .frameNeverEmitted
  | .badChecksum => .refused .frameNeverEmitted

/-- The engine between steps with nothing presented: it waits, and nothing changes (log 3). -/
def waitForEvent (s : State) : Host.Outcome State Fault Refusal :=
  .next s

end Sys2Proof.Machine
end

