-- ==== Sys2Proof/Machine/ProtocolTiming.lean ====
section
/-!
DEFINITION. Machine/ProtocolTiming.lean: the timing table of 40_protocol_timing.md, as data that the transmitter is given, and
the record of the tunable parameters it belongs to.
-/

namespace Sys2Proof.Machine

/-- The five-tuple of R133, in nanoseconds: the bit period, and HIGH and LOW of a 1 and of a 0. -/
structure BitTiming where
  period : Nat
  t1h : Nat
  t1l : Nat
  t0h : Nat
  t0l : Nat
deriving DecidableEq, Repr

/-- A timing table: one five-tuple per speed grade (R133, 93_implementation_defined.md U17). PWM has no row (R134). -/
structure TimingTable where
  d150 : BitTiming
  d300 : BitTiming
  d600 : BitTiming
deriving DecidableEq, Repr

/-- The row of a grade. -/
def TimingTable.row (table : TimingTable) : Grade → BitTiming
  | .d150 => table.d150
  | .d300 => table.d300
  | .d600 => table.d600

/-- What the transmitter is given: the timing table (R133), and the retry policy of a special command
(43_special_commands.md R171; 00_scope.md R10). -/
structure Parameters where
  timing : TimingTable
  retry : Config.RetryPolicy
deriving DecidableEq, Repr

/-- `floor(T * num / den)`: the multiplication first, then integer division (44_esc_controller.md R201 (e)). -/
def highTime (period : Nat) (ratio : Nat × Nat) : Nat :=
  period * ratio.1 / ratio.2

/-- The default rounding of R133 (D3): HIGH is the floor, LOW the remainder. -/
def floorTiming (g : Grade) : BitTiming :=
  let t := Config.bitPeriodNs g
  let t1h := highTime t Config.highRatioOne
  let t0h := highTime t Config.highRatioZero
  { period := t, t1h := t1h, t1l := t - t1h, t0h := t0h, t0l := t - t0h }

/-- The spec's own values of the parameters, which `exec` runs with. -/
def parameters : Parameters where
  timing := { d150 := floorTiming .d150, d300 := floorTiming .d300, d600 := floorTiming .d600 }
  retry := Config.retryPolicy

/-- `timing(protocol)` on its three-variant domain, in the spec's own table (R133, R134). -/
def timing (g : Grade) : BitTiming :=
  parameters.timing.row g

end Sys2Proof.Machine
end

