-- ==== Sys2Proof/Machine/SignalTransmitter.lean ====
section
/-!
DEFINITION. Machine/SignalTransmitter.lean: the pin driver of 42_signal_transmitter.md and the repetition policy of
43_special_commands.md. Each operation's whole effect is the list of events it appends (R150, R174). The
timing and the retry policy are arguments (40_protocol_timing.md R133, 00_scope.md R10).
-/

namespace Sys2Proof.Machine

/-! ### The PWM pulse -/

/-- A pulse width in microseconds that meets the precondition of `sendPwm` (R152, U2). -/
abbrev PulseWidth := { w : Nat // Config.pwmMin ≤ w ∧ w ≤ Config.pwmMax }

/-- The pulse width a stored throttle is, if it meets the precondition. -/
def pulseWidthOf (v : Value) : Option PulseWidth :=
  if h : Config.pwmMin ≤ v.toNat ∧ v.toNat ≤ Config.pwmMax then some ⟨v.toNat, h⟩ else none

/-- The four events of one pulse (R151). -/
def pwmEvents (p : Pin) (w : PulseWidth) : List WireEvent :=
  [.level p .high, .wait (w.val * Config.nsPerUs), .level p .low, .wait ((Config.pwmPeriodUs - w.val) * Config.nsPerUs)]

/-- `sendPwm(w)`, on `S.pin` (R151, R159). -/
def State.sendPwm (s : State) (w : PulseWidth) : State :=
  s.emit (pwmEvents s.esc.pin w)

/-! ### The DShot frame -/

/-- One bit: HIGH, then LOW for the remainder of the period (R153, R155). -/
def bitEvents (p : Pin) (t : BitTiming) (bit : Bool) : List WireEvent :=
  [.level p .high, .wait (if bit then t.t1h else t.t0h), .level p .low, .wait (if bit then t.t1l else t.t0l)]

/-- The bits of a frame in the order they are sent, bit 15 first (R154). -/
def frameBits (f : FrameWord) : List Bool :=
  (List.range Config.frameBits).map (fun k => f.getLsbD (Config.frameBits - 1 - k))

/-- The events of one frame, inside its non-preemptible window (R153, R157). -/
def frameEvents (p : Pin) (t : BitTiming) (f : FrameWord) : List WireEvent :=
  [.critEnter] ++ (frameBits f).flatMap (bitEvents p t) ++ [.critExit]

/-- `sendDShot(value, protocol)`, on `S.pin`, for a DShot grade (R153, R158, R159). -/
def State.sendDShot (s : State) (c : Parameters) (v : Value) (g : Grade) : State :=
  s.emit (frameEvents s.esc.pin (c.timing.row g) (encodeFrame v))

/-! ### The burst of a special command -/

/-- `n` sends of `one` with `gap` between them, and after the last one too if `trailing` (43_special_commands.md R171). -/
def repeatSends (one gap : List WireEvent) (trailing : Bool) : Nat → List WireEvent
  | 0 => []
  | 1 => one ++ (if trailing then gap else [])
  | n + 2 => one ++ gap ++ repeatSends one gap trailing (n + 1)

/-- The events of a burst under a retry policy (R171). -/
def burstEvents (policy : Config.RetryPolicy) (p : Pin) (t : BitTiming) (f : FrameWord) : List WireEvent :=
  repeatSends (frameEvents p t f) [.wait (policy.gapMs * Config.nsPerMs)] policy.trailingGap policy.repeats

/-- `sendCommand(cmd)`, on `S.pin`, for a DShot grade (R171, R173, R174). -/
def State.sendCommand (s : State) (c : Parameters) (cmd : SpecialCommand) (g : Grade) : State :=
  s.emit (burstEvents c.retry s.esc.pin (c.timing.row g) (encodeFrame (Config.commandValue cmd)))

end Sys2Proof.Machine
end

