-- ==== Sys2Proof/Machine/ControlLoop.lean ====
section
/-!
DEFINITION. Machine/ControlLoop.lean: the meaning of `tick`, 45_control_loop.md.
-/

namespace Sys2Proof.Machine

/-- The tick's guard: `S.armed and S.throttle > 0` (R210, R212). -/
def EscState.transmits (e : EscState) : Bool :=
  e.armed && decide (0 < e.throttle.toNat)

/-- `tick` under given parameters (R210): dispatch on the protocol as it stands (R211). A pulse width outside the precondition of `sendPwm` stops the
model (42_signal_transmitter.md R152, U2; log 7). -/
def tickWith (c : Parameters) (s : State) : Host.Outcome State Fault Refusal :=
  if s.esc.transmits then
    match gradeOf s.esc.protocol with
    | some g => .next (s.sendDShot c s.esc.throttle g).silent
    | none =>
      match pulseWidthOf s.esc.throttle with
      | some w => .next (s.sendPwm w).silent
      | none => .fault .pwmWidthOutOfRange
  else .next s.silent

/-- `tick` (R210). -/
def execTick (s : State) : Host.Outcome State Fault Refusal :=
  tickWith parameters s

end Sys2Proof.Machine
end

