-- ==== Sys2Proof/Machine/EscController.lean ====
section
/-!
DEFINITION. Machine/EscController.lean: the meanings of the seven host operations, 44_esc_controller.md. Every test stands
before the first write (00_scope.md R14).
-/

namespace Sys2Proof.Machine

/-- `getStatus()` (R182): the record is the response's snapshot; nothing else is written. -/
def execGetStatus (s : State) : Host.Outcome State Fault Refusal :=
  s.returnOk

/-! ### configure -/

/-- The pin part of `configure`: on a changed pin, release the old one and take the new one as output LOW (R184, D13, D14). -/
def State.movePin (s : State) : Option Pin → State
  | none => s
  | some p =>
    if p = s.esc.pin then s
    else
      let released := s.gpioMode s.esc.pin .input
      let taken := (released.gpioMode p .output).gpioWrite p .low
      { taken with esc := { taken.esc with pin := p } }

/-- The protocol part of `configure`: on a changed protocol, force `Forward` under PWM and store the new idle value
(R184, D12, D14). -/
def State.changeProtocol (s : State) : Option Protocol → State
  | none => s
  | some p =>
    if p = s.esc.protocol then s
    else
      { s with esc := { s.esc with
          protocol := p
          direction := if p = .pwm then .forward else s.esc.direction
          throttle := idleThrottle p } }

/-- The saves of `configure`: each persisted field that differs from what it was, in the order pin, protocol, direction
(R184, D13, D15). -/
def State.saveChanged (s : State) (old : EscState) : State :=
  let s1 := if s.esc.pin = old.pin then s else s.nvSave .pin (.int s.esc.pin.val)
  let s2 := if s.esc.protocol = old.protocol then s1 else s1.nvSave .protocol (.str (protocolName s.esc.protocol))
  if s.esc.direction = old.direction then s2 else s2.nvSave .direction (.str (directionName s.esc.direction))

/-- `configure(pin?, protocol?)` (R183, R184): both tests, then pin, protocol, saves. -/
def execConfigure (pin : Option Int) (protocol : Option ProtocolArg) (s : State) : Host.Outcome State Fault Refusal :=
  match validatePin pin with
  | .error e => s.raise e
  | .ok newPin =>
    match validateProtocol protocol with
    | .error e => s.raise e
    | .ok newProtocol => (((s.movePin newPin).changeProtocol newProtocol).saveChanged s.esc).returnOk

/-! ### Throttle and mode -/

/-- `setThrottle(value)` (R186): clamp to the active range and store. -/
def execSetThrottle (value : Int) (s : State) : Host.Outcome State Fault Refusal :=
  State.returnOk { s with esc := { s.esc with throttle := clampThrottle s.esc.protocol value } }

/-- `arm()` (R188). -/
def execArm (s : State) : Host.Outcome State Fault Refusal :=
  State.returnOk { s with esc := { s.esc with armed := true, throttle := idleThrottle s.esc.protocol } }

/-- `disarm()` (R190): the pin is forced LOW within this step. -/
def execDisarm (s : State) : Host.Outcome State Fault Refusal :=
  let stopped : State := { s with esc := { s.esc with armed := false, throttle := 0#11 } }
  (stopped.gpioWrite stopped.esc.pin .low).returnOk

/-! ### Direction and brake -/

/-- What `setDirection` sends for a direction (R196): `Brake` is a label only. -/
def directionCommand : Direction → Option SpecialCommand
  | .forward => some .spinDirectionNormal
  | .reverse => some .command21
  | .brake => none

/-- `setDirection(dir)` under given parameters (R196): capability, then validation; then state, save, burst. -/
def setDirectionWith (c : Parameters) (dir : DirectionArg) (s : State) : Host.Outcome State Fault Refusal :=
  match gradeOf s.esc.protocol with
  | none => s.raise .capabilityError
  | some g =>
    match dir with
    | .unrecognized _ => s.raise .validationError
    | .known d =>
      let labelled : State := { s with esc := { s.esc with direction := d } }
      let saved := labelled.nvSave .direction (.str (directionName d))
      match directionCommand d with
      | none => saved.returnOk
      | some cmd => (saved.sendCommand c cmd g).returnOk

/-- `setDirection(dir)` (R196). -/
def execSetDirection (dir : DirectionArg) (s : State) : Host.Outcome State Fault Refusal :=
  setDirectionWith parameters dir s

/-- `brake()` under given parameters (R198): capability, then not-armed; then state, burst. Nothing is saved. -/
def brakeWith (c : Parameters) (s : State) : Host.Outcome State Fault Refusal :=
  match gradeOf s.esc.protocol with
  | none => s.raise .capabilityError
  | some g =>
    if s.esc.armed then
      let braked : State := { s with esc := { s.esc with direction := .brake, throttle := 0#11 } }
      (braked.sendCommand c .motorStop g).returnOk
    else s.raise .notArmedError

/-- `brake()` (R198). -/
def execBrake (s : State) : Host.Outcome State Fault Refusal :=
  brakeWith parameters s

end Sys2Proof.Machine
end

