-- ==== Sys2Proof/Machine/FrameRows.lean ====
section
/-!
DEFINITION. Machine/FrameRows.lean: the meanings of the four rows of the output format FRAME. A frame is an output: it reaches
the pin from exactly two sources, the tick and a burst (43_special_commands.md R175), and no bit pattern selects a send
(30_encoding.md R113). So a FRAME row stands for the step in which the engine puts that frame on the wire, by the event the
opcode table names under `sent_by`; where that event would not send it, the row is no event and nothing is sent (logs 1, 2).
-/

namespace Sys2Proof.Machine

/-- A tick taken now sends the frame of `v`: armed, throttle `v` above 0, a DShot protocol (45_control_loop.md R210, R211). -/
def EscState.tickSends (e : EscState) (v : Value) : Bool :=
  e.transmits && e.directionSupported && decide (e.throttle = v)

/-- A `brake` taken now succeeds, so that it sends motor-stop (44_esc_controller.md R198). -/
def EscState.brakeSends (e : EscState) : Bool :=
  e.directionSupported && e.armed

/-- The output does not occur here: nothing is sent and nothing is returned to the host. -/
def notSent (s : State) : Host.Outcome State Fault Refusal :=
  .next s.silent

/-- FRAME under given parameters: the tick that sends this value, the only way a value of no special command reaches the pin
(43_special_commands.md R175, R176). -/
def frameWith (c : Parameters) (v : Value) (s : State) : Host.Outcome State Fault Refusal :=
  if s.esc.tickSends v then tickWith c s else notSent s

/-- FRAME.motor_stop under given parameters: "brake() via sendCommand(0)". -/
def frameMotorStopWith (c : Parameters) (s : State) : Host.Outcome State Fault Refusal :=
  if s.esc.brakeSends then brakeWith c s else notSent s

/-- FRAME.spin_direction_normal and FRAME.command_21 under given parameters: "setDirection(Forward) via sendCommand(20)", and
for `Reverse` "via sendCommand(21)". -/
def frameDirectionWith (c : Parameters) (d : Direction) (s : State) : Host.Outcome State Fault Refusal :=
  if s.esc.directionSupported then setDirectionWith c (.known d) s else notSent s

/-- FRAME (R143, R210). -/
def execFrame (v : Value) (s : State) : Host.Outcome State Fault Refusal :=
  frameWith parameters v s

/-- FRAME.motor_stop (R114, R198). -/
def execFrameMotorStop (s : State) : Host.Outcome State Fault Refusal :=
  frameMotorStopWith parameters s

/-- FRAME.spin_direction_normal (R114, R196). -/
def execFrameSpinDirectionNormal (s : State) : Host.Outcome State Fault Refusal :=
  frameDirectionWith parameters .forward s

/-- FRAME.command_21 (R114, R196). -/
def execFrameCommand21 (s : State) : Host.Outcome State Fault Refusal :=
  frameDirectionWith parameters .reverse s

end Sys2Proof.Machine
end

