-- ==== Sys2Proof/Machine/Reset.lean ====
section
/-!
DEFINITION. Machine/Reset.lean: the meaning of `reset`, 70_reset_and_hazards.md R260 to R264.
-/

namespace Sys2Proof.Machine

/-- The persisted pin if it is an integer in [0,39], else the default (R260, R261). -/
def loadPin (nv : NvStore) : Pin :=
  match nv.load .pin with
  | some (.int v) => (pinOfInt v).getD Config.pinDefault
  | some (.str _) => Config.pinDefault
  | none => Config.pinDefault

/-- The persisted protocol if it is one of the four names, else the default. -/
def loadProtocol (nv : NvStore) : Protocol :=
  match nv.load .protocol with
  | some (.str n) => (protocolOfName n).getD Config.protocolDefault
  | some (.int _) => Config.protocolDefault
  | none => Config.protocolDefault

/-- The persisted direction if it is one of the three names, else the default. -/
def loadDirection (nv : NvStore) : Direction :=
  match nv.load .direction with
  | some (.str n) => (directionOfName n).getD Config.directionDefault
  | some (.int _) => Config.directionDefault
  | none => Config.directionDefault

/-- `S` after reset (R260): always disarmed, at the idle value, `Forward` forced under PWM (D20). -/
def bootState (nv : NvStore) : EscState :=
  let protocol := loadProtocol nv
  { pin := loadPin nv
    protocol := protocol
    armed := false
    throttle := idleThrottle protocol
    direction := if protocol = .pwm then .forward else loadDirection nv }

/-- `reset` (R260): `S` from the store, `W` and `G` emptied, the pin taken as output LOW (R262). The store is not written
(R264), and what the environment will do is not the engine's to reset (log 19). -/
def execReset (s : State) : Host.Outcome State Fault Refusal :=
  let booted : State := { s with esc := bootState s.nv, wire := [], shadow := [] }
  .next ((booted.gpioMode booted.esc.pin .output).gpioWrite booted.esc.pin .low).silent

end Sys2Proof.Machine
end

