-- ==== Sys2Proof/Machine/Dispatch.lean ====
section
/-!
DEFINITION. Machine/Dispatch.lean: the meaning of every instruction, one arm per constructor.
-/

namespace Sys2Proof.Machine

def exec (i : Instr) (s : State) : Host.Outcome State Fault Refusal :=
  match i with
  -- 44_esc_controller.md
  | .getStatus => Sys2Proof.Machine.execGetStatus s
  | .configure pin protocol => Sys2Proof.Machine.execConfigure pin protocol s
  | .setThrottle value => Sys2Proof.Machine.execSetThrottle value s
  | .arm => Sys2Proof.Machine.execArm s
  | .disarm => Sys2Proof.Machine.execDisarm s
  | .setDirection dir => Sys2Proof.Machine.execSetDirection dir s
  | .brake => Sys2Proof.Machine.execBrake s
  -- 45_control_loop.md, 70_reset_and_hazards.md
  | .tick => Sys2Proof.Machine.execTick s
  | .reset => Sys2Proof.Machine.execReset s
  -- 30_encoding.md R90, R114
  | .frame v => Sys2Proof.Machine.execFrame v s
  | .frameMotorStop => Sys2Proof.Machine.execFrameMotorStop s
  | .frameSpinDirectionNormal => Sys2Proof.Machine.execFrameSpinDirectionNormal s
  | .frameCommand21 => Sys2Proof.Machine.execFrameCommand21 s

end Sys2Proof.Machine
end

