-- ==== Sys2Proof/Machine/Step.lean ====
section
/-!
DEFINITION. Machine/Step.lean: one step of the machine takes one input word, decodes it and runs it to completion
(00_scope.md R15, 20_memory.md R74).
-/

namespace Sys2Proof.Machine

/-- One step. With nothing presented the engine waits; a word that is no instruction goes to `rejectWord`. -/
def step (s : State) : Host.Outcome State Fault Refusal :=
  match s.fetch with
  | none => waitForEvent s
  | some (w, taken) =>
    match decode w with
    | .ok i => exec i taken
    | .error r => rejectWord r taken

/-- The state with the table word presented in front of every other input, so that the next step takes it (log 3, log 17).
Nothing else changes. A word that no port carries presents nothing. -/
def State.withFetchWord (s : State) (nbits w : Nat) : State :=
  { s with inputs := (tablePortWord nbits w).toList ++ s.inputs }

end Sys2Proof.Machine
end

