-- ==== Sys2Proof/Machine/Tunable.lean ====
section
/-!
DEFINITION. Machine/Tunable.lean: the instructions with the timing table and the retry policy as an argument of the model
(40_protocol_timing.md R133; 93_implementation_defined.md U16, U17). `exec` is this at the spec's own values.
-/

namespace Sys2Proof.Machine

/-- What an instruction does under given parameters. -/
def execWith (c : Parameters) (i : Instr) (s : State) : Host.Outcome State Fault Refusal :=
  match i with
  | .getStatus => execGetStatus s
  | .configure pin protocol => execConfigure pin protocol s
  | .setThrottle value => execSetThrottle value s
  | .arm => execArm s
  | .disarm => execDisarm s
  | .setDirection dir => setDirectionWith c dir s
  | .brake => brakeWith c s
  | .tick => tickWith c s
  | .reset => execReset s
  | .frame v => frameWith c v s
  | .frameMotorStop => frameMotorStopWith c s
  | .frameSpinDirectionNormal => frameDirectionWith c .forward s
  | .frameCommand21 => frameDirectionWith c .reverse s

end Sys2Proof.Machine
end

