-- ==== Sys2Proof/Safety.lean ====
section
/-!
DEFINITION. Safety.lean: the terms claims are stated in: the invariants of 10_state.md R27 and 42_signal_transmitter.md R160,
the store's answers to the saves to come, which instructions are events of the hardware, which words can be presented, and how a receiver reads the wire.
-/

namespace Sys2Proof.Machine

/-! ### Invariants -/

/-- INV2, INV3 and INV6 of R27. INV1 and the DShot half of INV2 hold by type (log 20), INV4 by definition. -/
structure EscState.Inv (e : EscState) : Prop where
  /-- INV2 under PWM: the throttle is 0 or a pulse width. -/
  pwmThrottle : e.protocol = .pwm → e.throttle = 0#11 ∨ 1000 ≤ e.throttle.toNat ∧ e.throttle.toNat ≤ 2000
  /-- INV3: PWM has no direction. -/
  pwmForward : e.protocol = .pwm → e.direction = .forward
  /-- INV6: the precondition of `sendPwm`. -/
  armedPwm : e.armed = true → e.protocol = .pwm → 1000 ≤ e.throttle.toNat ∧ e.throttle.toNat ≤ 2000

/-- What holds between steps: the invariants of `S`, `G` is the fold of `W` in its canonical form (10_state.md R35), and the
pin in use is an output at LOW (42_signal_transmitter.md R160). -/
structure State.Inv (s : State) : Prop where
  esc : s.esc.Inv
  replay : s.shadow = PinSpace.replay s.wire
  canonical : s.shadow.wf = true
  pinLow : s.shadow.read s.esc.pin = { mode := .output, level := .low }

/-- Every cell of the store is blank or holds a value that passes the operand tests (70_reset_and_hazards.md R261). -/
structure NvStore.Usable (nv : NvStore) : Prop where
  pin : nv.load .pin = none ∨ ∃ p : Pin, nv.load .pin = some (.int p.val)
  protocol : nv.load .protocol = none ∨ ∃ p : Protocol, nv.load .protocol = some (.str (protocolName p))
  direction : nv.load .direction = none ∨ ∃ d : Direction, nv.load .direction = some (.str (directionName d))

/-! ### Draws of the store -/

/-- The store's answer to the save number `k` from now, counting from 0: the one the environment gives, else the free value of
that draw (20_memory.md R69; log 4). -/
def State.answer (s : State) (k : Nat) : Bool :=
  (s.saveAnswers[k]?).getD (Config.saveKept (s.drawCount + (k - s.saveAnswers.length)))

/-! ### Events of the hardware -/

/-- The nine events of 60_exceptions.md R236; the four FRAME rows stand for those of them that send that frame (log 1). -/
def hostEvent : Instr → Bool
  | .getStatus => true
  | .configure _ _ => true
  | .setThrottle _ => true
  | .arm => true
  | .disarm => true
  | .setDirection _ => true
  | .brake => true
  | .tick => true
  | .reset => true
  | .frame _ => false
  | .frameMotorStop => false
  | .frameSpinDirectionNormal => false
  | .frameCommand21 => false

/-- The words that can be at a port: any CMD word, any strobe but 11 (30_encoding.md R109), any frame of a value (R106). -/
def presentable : PortWord → Bool
  | .cmd _ => true
  | .strobe w => w != 0b11#2
  | .frame f => !frameTelem f && frameCrc f == crc4 (frameValue f)

/-! ### Reading the wire -/

/-- The HIGH times of a stretch of the trace: each wait that follows a rise to HIGH. -/
def highTimes : List WireEvent → List Nat
  | .level _ .high :: .wait ns :: rest => ns :: highTimes rest
  | _ :: rest => highTimes rest
  | [] => []

/-- The bits a receiver reads: a HIGH of `T1H` is a 1. -/
def readBits (t : BitTiming) (w : List WireEvent) : List Bool :=
  (highTimes w).map (fun ns => ns == t.t1h)

/-- A list of bits as a number, most significant first. -/
def bitsToNat (bits : List Bool) : Nat :=
  bits.foldl (fun n b => 2 * n + b.toNat) 0

end Sys2Proof.Machine
end

