-- ==== Sys2Proof/Certificates/Slice0/Obligations.lean ====
section
/-!
DEFINITION. Certificates/Slice0/Obligations.lean: the statements for the provers. Each docstring names the rule of spec/ or the
log entry it rests on.
-/

open Sys2Proof Sys2Proof.Machine

/-! ### Encodings (30_encoding.md) -/

/-- Encode, then decode: no bit of an operand is dropped, at every value an encoding admits (R103 to R105, R109, R114). -/
def Obligations.EncodeThenDecodeGivesTheInstruction : Prop :=
  ∀ i : Instr, i.wellFormed = true → decode (encode i) = .ok i

/-- Whatever a port carries, what the decoder accepts is well formed (R104). -/
def Obligations.DecodedInstructionIsWellFormed : Prop :=
  ∀ (w : PortWord) (i : Instr), decode w = .ok i → i.wellFormed = true

/-- Every accepted word is the encoding of what it decodes to; `configure` alone has bits that are ignored, those of an absent
operand (R104), and its encoding is the word with them cleared: that `encode` writes them as zeros is the model's choice
(log 18). -/
def Obligations.DecodedWordIsReencoded : Prop :=
  ∀ (w : PortWord) (i : Instr), decode w = .ok i →
    ((∀ pin protocol, i ≠ .configure pin protocol) → encode i = w) ∧
    (∀ pin protocol, i = .configure pin protocol → ∃ c : CmdWord, w = .cmd c ∧
      encode i = .cmd (c &&& (0xFC000000#32 ||| (if c.getLsbD 27 then 0x000000FF#32 else 0#32) |||
        (if c.getLsbD 26 then 0x0000FF00#32 else 0#32))))

/-- Words written out from the layouts of R105, R109 and R114 and the vectors of 95_test_vectors.md. -/
def Obligations.WordsOfTheSpecDecode : Prop :=
  decode (.cmd 0b00010000000000000000000000000000#32) = .ok .getStatus ∧
  decode (.cmd 0b00101100000000000000001000000101#32) = .ok (.configure (some 5) (some (.known .dshot300))) ∧
  decode (.cmd 0b00101000000000000000000011111111#32) = .ok (.configure (some (-1)) none) ∧
  decode (.cmd 0b00110000111111111111111111110110#32) = .ok (.setThrottle (-10)) ∧
  decode (.cmd 0b01000000000000000000000000000000#32) = .ok .arm ∧
  decode (.cmd 0b01010000000000000000000000000000#32) = .ok .disarm ∧
  decode (.cmd 0b01100000000000000000000000000001#32) = .ok (.setDirection (.known .reverse)) ∧
  decode (.cmd 0b01110000000000000000000000000000#32) = .ok .brake ∧
  decode (.strobe 0b01#2) = .ok .tick ∧
  decode (.strobe 0b10#2) = .ok .reset ∧
  decode (.frame 0b0000011000000110#16) = .ok (.frame 48#11) ∧
  decode (.frame 0b0000000000000000#16) = .ok .frameMotorStop ∧
  decode (.frame 0b0000001010001010#16) = .ok .frameSpinDirectionNormal ∧
  decode (.frame 0b0000001010101000#16) = .ok .frameCommand21

/-- A CMD word with a reserved `op`, or with a nonzero must-be-zero bit of its layout, is answered with ValidationError and
changes nothing (R103, R105, R106; the spec's decision D8, log 6). -/
def Obligations.ReservedCommandWordIsAnswered : Prop :=
  ∀ (s : State) (w : CmdWord) (rest : List PortWord), s.inputs = .cmd w :: rest →
    (w.toNat / 2 ^ 28 = 0 ∨ 8 ≤ w.toNat / 2 ^ 28 ∨
      (w.toNat / 2 ^ 28 = 2 ∧ w &&& 0x03FF0000#32 ≠ 0#32) ∨
      (w.toNat / 2 ^ 28 = 3 ∧ w &&& 0x0F000000#32 ≠ 0#32) ∨
      (w.toNat / 2 ^ 28 = 6 ∧ w &&& 0x0FFFFF00#32 ≠ 0#32) ∨
      (w.toNat / 2 ^ 28 ∈ [1, 4, 5, 7] ∧ w &&& 0x0FFFFFFF#32 ≠ 0#32)) →
    ∃ r, step s = .next { s with inputs := rest, response := some r } ∧ rspCode r = 1#2

/-- What the engine does with the words that are no event or never there: STROBE 00 is no event (R109); STROBE 11 and a FRAME
word no value encodes to stop the model by name (R109, R106; logs 8 and 9). -/
def Obligations.WordsNeverPresentedStopByName : Prop :=
  ∀ (s : State) (rest : List PortWord),
    (s.inputs = .strobe 0b00#2 :: rest → step s = .next { s with inputs := rest }) ∧
    (s.inputs = .strobe 0b11#2 :: rest → step s = .refused .bothStrobes) ∧
    (∀ f : FrameWord, s.inputs = .frame f :: rest → (∀ v, encodeFrame v ≠ f) → step s = .refused .frameNeverEmitted)

/-- One step takes the word in front and runs the instruction it decodes to; with nothing presented nothing changes; a table
word put in front by `withFetchWord` runs at once (00_scope.md R15; logs 3 and 17). -/
def Obligations.StepRunsThePresentedInstruction : Prop :=
  (∀ (s : State) (w : PortWord) (rest : List PortWord) (i : Instr), s.inputs = w :: rest → decode w = .ok i →
    step s = exec i { s with inputs := rest }) ∧
  (∀ s : State, s.inputs = [] → step s = .next s) ∧
  (∀ (s : State) (nbits w : Nat) (i : Instr), decodeTableWord nbits w = some i → step (s.withFetchWord nbits w) = exec i s)

/-- The response word carries its code and the snapshot of `S` at the bits of R107, and its reserved bits are zero; every
response an instruction gives is such a word, of `S` as the instruction leaves it, and every CMD word, a rejected one too, is
answered with one (which code answers which word is EveryCommandIsAnsweredWithItsCode). -/
def Obligations.ResponseWordFields : Prop :=
  (∀ (i : Instr) (s t : State) (r : RspWord), exec i s = .next t → t.response = some r → ∃ c, r = rspWord c t.esc) ∧
  (∀ (s : State) (w : CmdWord) (rest : List PortWord), s.inputs = .cmd w :: rest →
    ∃ t c, step s = .next t ∧ t.response = some (rspWord c t.esc)) ∧
  ∀ (c : ResultCode) (e : EscState),
    rspCode (rspWord c e) = (match c with
      | .ok => 0#2
      | .validationError => 1#2
      | .capabilityError => 2#2
      | .notArmedError => 3#2) ∧
    rspReserved (rspWord c e) = 0#32 ∧
    rspThrottle (rspWord c e) = e.throttle ∧
    rspDirectionSupported (rspWord c e) = decide (e.protocol ≠ .pwm) ∧
    rspDirection (rspWord c e) = (match e.direction with
      | .forward => 0#2
      | .reverse => 1#2
      | .brake => 2#2) ∧
    rspArmed (rspWord c e) = e.armed ∧
    rspProtocol (rspWord c e) = (match e.protocol with
      | .pwm => 0#2
      | .dshot150 => 1#2
      | .dshot300 => 2#2
      | .dshot600 => 3#2) ∧
    (rspPin (rspWord c e)).toNat = e.pin.val

/-! ### The frame and the wire (40 to 43) -/

/-- The checksum fold and the assembly of the frame, against their closed forms (R142, R91). -/
def Obligations.FrameAssembly : Prop :=
  ∀ v : Value,
    packet v >>> 12 = 0#16 ∧
    crc4 v = ((packet v ^^^ packet v >>> 4 ^^^ packet v >>> 8) &&& 0xF#16).setWidth 4 ∧
    encodeFrame v = v.setWidth 16 <<< 5 ||| (crc4 v).setWidth 16 ∧
    encodeFrame v = packet v <<< 4 ||| (crc4 v).setWidth 16 ∧
    frameValue (encodeFrame v) = v ∧ frameTelem (encodeFrame v) = false ∧ frameCrc (encodeFrame v) = crc4 v

/-- The five properties of every emitted frame (R144, an inference the spec marks as its own). -/
def Obligations.FrameProperties : Prop :=
  (∀ v, frameValue (encodeFrame v) = v ∧ frameTelem (encodeFrame v) = false) ∧
  (∀ v, frameNibbleXor (encodeFrame v) = 0#16) ∧
  (∀ a b, encodeFrame a = encodeFrame b → a = b) ∧
  (∀ a b, crc4 (a ^^^ b) = crc4 a ^^^ crc4 b) ∧
  (∀ v, (packet v).toNat = 2 * v.toNat ∧ (packet v).toNat ≤ 4094 ∧
    (packet v <<< 4).toNat = 16 * (packet v).toNat ∧ (packet v <<< 4).toNat ≤ 65504)

/-- The timing table, and the formulas it comes from (R133). -/
def Obligations.TimingTable : Prop :=
  timing .d150 = { period := 6667, t1h := 5000, t1l := 1667, t0h := 2500, t0l := 4167 } ∧
  timing .d300 = { period := 3333, t1h := 2499, t1l := 834, t0h := 1249, t0l := 2084 } ∧
  timing .d600 = { period := 1667, t1h := 1250, t1l := 417, t0h := 625, t0l := 1042 } ∧
  ∀ g, (timing g).t1h = (timing g).period * 3 / 4 ∧ (timing g).t0h = (timing g).period * 3 / 8 ∧
    (timing g).t1h + (timing g).t1l = (timing g).period ∧ (timing g).t0h + (timing g).t0l = (timing g).period

/-- The bit waveform and the frame: bit 15 first, HIGH then LOW, equal bits, 66 events, sixteen periods (R154;
all but the order of the bits is R155, an inference the spec marks as its own). -/
def Obligations.FrameWaveform : Prop :=
  ∀ (p : Pin) (g : Grade) (f : FrameWord), ∃ bits : List Bool,
    bits.length = 16 ∧ (∀ k < 16, bits[k]? = some (f.getLsbD (15 - k))) ∧
    frameEvents p (timing g) f =
      .critEnter :: (bits.flatMap (fun b =>
        if b then [.level p .high, .wait (timing g).t1h, .level p .low, .wait (timing g).t1l]
        else [.level p .high, .wait (timing g).t0h, .level p .low, .wait (timing g).t0l]) ++ [.critExit]) ∧
    (timing g).t1h + (timing g).t1l = (timing g).period ∧ (timing g).t0h + (timing g).t0l = (timing g).period ∧
    (frameEvents p (timing g) f).length = 66 ∧
    traceDuration (frameEvents p (timing g) f) = 16 * (timing g).period

/-- The wire says the value: a receiver that tells a 1 from a 0 by its HIGH time reads back the sixteen bits of the frame, and
the value from the upper eleven (R64, R132, R153; 30_encoding.md R90). -/
def Obligations.WireReadsBackTheFrame : Prop :=
  ∀ (p : Pin) (g : Grade) (v : Value),
    (readBits (timing g) (frameEvents p (timing g) (encodeFrame v))).length = 16 ∧
    bitsToNat (readBits (timing g) (frameEvents p (timing g) (encodeFrame v))) = (encodeFrame v).toNat ∧
    bitsToNat (readBits (timing g) (frameEvents p (timing g) (encodeFrame v))) / 32 = v.toNat

/-- The repetition policy: ten equal frames, a 1 ms pause between each two and none after the tenth (R171). -/
def Obligations.BurstIsTenFramesAndNinePauses : Prop :=
  ∀ (s : State) (c : SpecialCommand) (g : Grade),
    let one := frameEvents s.esc.pin (timing g) (match c with
      | .motorStop => 0x0000#16
      | .spinDirectionNormal => 0x028A#16
      | .command21 => 0x02A8#16)
    (s.sendCommand parameters c g).wire = s.wire ++ ((List.replicate 9 (one ++ [.wait 1000000])).flatten ++ one)

/-- A burst under any retry policy that sends at least once: its count, its delay between sends, and the delay after the last
send if the policy has one (R171; 00_scope.md R10; 93_implementation_defined.md U16). -/
def Obligations.BurstFollowsItsPolicy : Prop :=
  ∀ (s : State) (c : Parameters) (cmd : SpecialCommand) (g : Grade) (n : Nat), c.retry.repeats = n + 1 →
    let one := frameEvents s.esc.pin (c.timing.row g) (encodeFrame (Config.commandValue cmd))
    let gap := [WireEvent.wait (c.retry.gapMs * 1000000)]
    (s.sendCommand c cmd g).wire =
      s.wire ++ ((List.replicate n (one ++ gap)).flatten ++ one ++ (if c.retry.trailingGap then gap else []))

/-- The timing table and the retry policy are an argument of the model, and nothing but the wire depends on them: under any two,
an instruction gives the same `S`, `NV` and response, and stops alike; `exec` is the model at the spec's own values (R133; U16,
U17). -/
def Obligations.ParametersReachOnlyTheWire : Prop :=
  (∀ (i : Instr) (s : State), exec i s = execWith parameters i s) ∧
  ∀ (c c' : Parameters) (i : Instr) (s : State),
    (∀ t, execWith c i s = .next t → ∃ t', execWith c' i s = .next t' ∧ t'.esc = t.esc ∧ t'.nv = t.nv ∧
      t'.response = t.response ∧ t'.inputs = t.inputs ∧ t'.saveAnswers = t.saveAnswers ∧ t'.drawCount = t.drawCount) ∧
    (∀ f, execWith c i s = .fault f → execWith c' i s = .fault f)

/-- The size and the duration of a burst, under the timing of the active protocol, and the pin at LOW in each of the nine
pauses, which stand at positions 66 + 67k (R173, an inference the spec marks as its own). -/
def Obligations.BurstLengthAndDuration : Prop :=
  ∀ (s : State) (c : SpecialCommand) (g : Grade), s.shadow.wf = true → gradeOf s.esc.protocol = some g →
    ∃ burst, (s.sendCommand parameters c g).wire = s.wire ++ burst ∧ burst.length = 669 ∧
      traceDuration burst = 10 * 16 * (timing g).period + 9 * 1000000 ∧
      traceDuration burst = (match g with
        | .d150 => 10066720
        | .d300 => 9533280
        | .d600 => 9266720) ∧
      ∀ k < 9, ∃ before after, burst = before ++ .wait 1000000 :: after ∧ before.length = 66 + 67 * k ∧
        ((s.emit before).shadow.read s.esc.pin).level = .low

/-! ### The seven operations (44_esc_controller.md) -/

/-- `getStatus()` returns OK and the record, and writes nothing (R182). -/
def Obligations.StatusQueryReturnsTheRecord : Prop :=
  decode (.cmd 0x10000000#32) = .ok .getStatus ∧
  (∀ s : State, ∃ r, exec .getStatus s = .next { s with response := some r } ∧
    rspCode r = 0#2 ∧ (rspPin r).toNat = s.esc.pin.val ∧ rspProtocol r = s.esc.protocol.code ∧ rspArmed r = s.esc.armed ∧
    rspThrottle r = s.esc.throttle ∧ rspDirection r = s.esc.direction.code ∧
    rspDirectionSupported r = decide (s.esc.protocol ≠ .pwm)) ∧
  exec .getStatus State.reset = .next { State.reset with response := some 0x03E80005#32 }

/-- `configure` with a pin outside [0,39] or an unrecognized protocol: ValidationError, and the valid half is not applied
(R183). -/
def Obligations.ConfigureRejectsInvalidOperands : Prop :=
  ∀ (pin : Option Int) (protocol : Option ProtocolArg) (s : State),
    ((∃ v, pin = some v ∧ (v < 0 ∨ 39 < v)) ∨ ∃ code, protocol = some (.unrecognized code)) →
    ∃ r, exec (.configure pin protocol) s = .next { s with response := some r } ∧ rspCode r = 1#2

/-- `configure` with valid operands, in both modes: what `S` becomes, the pin events, and the answer OK (R184). -/
def Obligations.ConfigureTakesEffect : Prop :=
  ∀ (newPin : Option Pin) (newProtocol : Option Protocol) (s : State),
    let pin := newPin.getD s.esc.pin
    let protocol := newProtocol.getD s.esc.protocol
    ∃ t, exec (.configure (newPin.map (fun p => (p.val : Int))) (newProtocol.map .known)) s = .next t ∧
      t.esc.pin = pin ∧ t.esc.protocol = protocol ∧ t.esc.armed = s.esc.armed ∧
      t.esc.throttle = (if protocol = s.esc.protocol then s.esc.throttle else if protocol = .pwm then 1000#11 else 48#11) ∧
      t.esc.direction = (if protocol = s.esc.protocol then s.esc.direction
        else if protocol = .pwm then .forward else s.esc.direction) ∧
      t.wire = s.wire ++ (if pin = s.esc.pin then []
        else [.mode s.esc.pin .input, .mode pin .output, .level pin .low]) ∧
      t.inputs = s.inputs ∧ ∃ r, t.response = some r ∧ rspCode r = 0#2

/-- The pins under `configure`: the old one becomes an input with its level as recorded, the new one an output at LOW, every
other pin, and every pin where the pin did not change, reads as before (R184; that the old level stays recorded is R185 (c), an
inference the spec marks as its own). -/
def Obligations.ConfigureTouchesOnlyTheTwoPins : Prop :=
  ∀ (pin : Option Int) (protocol : Option ProtocolArg) (s t : State), s.shadow.wf = true →
    exec (.configure pin protocol) s = .next t →
    (t.esc.pin = s.esc.pin → ∀ q, t.shadow.read q = s.shadow.read q) ∧
    (t.esc.pin ≠ s.esc.pin →
      t.shadow.read s.esc.pin = { mode := .input, level := (s.shadow.read s.esc.pin).level } ∧
      t.shadow.read t.esc.pin = { mode := .output, level := .low } ∧
      ∀ q, q ≠ s.esc.pin → q ≠ t.esc.pin → t.shadow.read q = s.shadow.read q)

/-- The store under `configure`: a key whose field did not change is as before, and a key whose field changed holds the new
value or, the save being lost, what it held (R68, R69, R184). -/
def Obligations.ConfigureSavesOnlyChangedFields : Prop :=
  ∀ (pin : Option Int) (protocol : Option ProtocolArg) (s t : State), exec (.configure pin protocol) s = .next t →
    (t.esc.pin = s.esc.pin → t.nv.load .pin = s.nv.load .pin) ∧
    (t.nv.load .pin = s.nv.load .pin ∨ t.nv.load .pin = some (.int t.esc.pin.val)) ∧
    (t.esc.protocol = s.esc.protocol → t.nv.load .protocol = s.nv.load .protocol) ∧
    (t.nv.load .protocol = s.nv.load .protocol ∨ t.nv.load .protocol = some (.str (protocolName t.esc.protocol))) ∧
    (t.esc.direction = s.esc.direction → t.nv.load .direction = s.nv.load .direction) ∧
    (t.nv.load .direction = s.nv.load .direction ∨ t.nv.load .direction = some (.str "FORWARD"))

/-- The saves of every accepted `configure`, whichever fields it changes: the changed ones, in the order pin, protocol,
direction, each take the next answer of the store and are kept or lost by it, the others keep their keys, and exactly one answer
is used for each changed field (R69, R184, D13; that answers not given are free values is log 4). -/
def Obligations.ConfigureSavesInOrder : Prop :=
  ∀ (newPin : Option Pin) (newProtocol : Option Protocol) (s : State),
    let pin := newPin.getD s.esc.pin
    let protocol := newProtocol.getD s.esc.protocol
    let direction := if protocol ≠ s.esc.protocol ∧ protocol = .pwm then .forward else s.esc.direction
    let pinSaves := if pin = s.esc.pin then 0 else 1
    let protocolSaves := if protocol = s.esc.protocol then 0 else 1
    let directionSaves := if direction = s.esc.direction then 0 else 1
    ∃ t, exec (.configure (newPin.map (fun p => (p.val : Int))) (newProtocol.map .known)) s = .next t ∧
      t.nv.load .pin = (if pin ≠ s.esc.pin ∧ s.answer 0 = true then some (.int pin.val) else s.nv.load .pin) ∧
      t.nv.load .protocol = (if protocol ≠ s.esc.protocol ∧ s.answer pinSaves = true then some (.str (match protocol with
          | .pwm => "PWM"
          | .dshot150 => "DSHOT150"
          | .dshot300 => "DSHOT300"
          | .dshot600 => "DSHOT600"))
        else s.nv.load .protocol) ∧
      t.nv.load .direction = (if direction ≠ s.esc.direction ∧ s.answer (pinSaves + protocolSaves) = true
        then some (.str "FORWARD") else s.nv.load .direction) ∧
      t.saveAnswers = s.saveAnswers.drop (pinSaves + protocolSaves + directionSaves) ∧
      t.drawCount = s.drawCount + (pinSaves + protocolSaves + directionSaves - s.saveAnswers.length)

/-- `configure` with the settings already in force: OK, and nothing else happens, no event and no save, so a lost save is not
retried (R184, D14; the last is R273, an inference the spec marks as its own). -/
def Obligations.ConfigureWithCurrentSettingsDoesNothing : Prop :=
  ∀ (s : State) (pin : Option Int) (protocol : Option ProtocolArg),
    (pin = none ∨ pin = some (s.esc.pin.val : Int)) → (protocol = none ∨ protocol = some (.known s.esc.protocol)) →
    ∃ r, exec (.configure pin protocol) s = .next { s with response := some r } ∧ rspCode r = 0#2

/-- `setThrottle(value)`: decoded from its signed field, clamped to the active range, always OK, nothing else written; if
armed, the new value reaches the pin at the next tick, unless it is 0 (R186). -/
def Obligations.SetThrottleClamps : Prop :=
  (∀ w : CmdWord, w.extractLsb' 24 8 = 0x30#8 → decode (.cmd w) = .ok (.setThrottle (w.extractLsb' 0 24).toInt)) ∧
  (∀ (v : Int) (s : State), ∃ th r,
    exec (.setThrottle v) s = .next { s with esc := { s.esc with throttle := th }, response := some r } ∧
    rspCode r = 0#2 ∧
    (th.toNat : Int) = (if s.esc.protocol = .pwm then (if v < 1000 then 1000 else if 2000 < v then 2000 else v)
      else (if v < 0 then 0 else if 2047 < v then 2047 else v))) ∧
  (∀ (v : Int) (s : State), s.esc.armed = true → 0 < v ∨ s.esc.protocol = .pwm →
    ∃ t u, exec (.setThrottle v) s = .next t ∧ exec .tick t = .next u ∧
      u.wire = s.wire ++ (match gradeOf s.esc.protocol with
        | some g => frameEvents s.esc.pin (timing g) (encodeFrame t.esc.throttle)
        | none => [.level s.esc.pin .high, .wait (t.esc.throttle.toNat * 1000), .level s.esc.pin .low,
            .wait ((20000 - t.esc.throttle.toNat) * 1000)]))

/-- A host that saturates the operands to their fields gets the same outcome (R104): throttle to 24 bits, pin to 8 bits. -/
def Obligations.SaturatedOperandsGiveTheSameOutcome : Prop :=
  ∀ s : State,
    (∀ v : Int, exec (.setThrottle (max (-8388608) (min v 8388607))) s = exec (.setThrottle v) s) ∧
    (∀ (v : Int) (protocol : Option ProtocolArg),
      exec (.configure (some (max (-128) (min v 127))) protocol) s = exec (.configure (some v) protocol) s)

/-- `arm()`: armed at the idle value, always OK, no event, no save (R188). -/
def Obligations.ArmEntersArmedAtIdle : Prop :=
  decode (.cmd 0x40000000#32) = .ok .arm ∧
  ∀ s : State, ∃ r,
    exec .arm s = .next { s with
      esc := { s.esc with armed := true, throttle := if s.esc.protocol = .pwm then 1000#11 else 48#11 }
      response := some r } ∧ rspCode r = 0#2

/-- `disarm()`: disarmed, throttle 0, the pin forced LOW in this very step, always OK, no save (R190). -/
def Obligations.DisarmIsImmediate : Prop :=
  decode (.cmd 0x50000000#32) = .ok .disarm ∧
  ∀ s : State, ∃ r,
    exec .disarm s = .next { s with
      esc := { s.esc with armed := false, throttle := 0#11 }
      wire := s.wire ++ [.level s.esc.pin .low]
      shadow := s.shadow.write s.esc.pin { mode := (s.shadow.read s.esc.pin).mode, level := .low }
      response := some r } ∧ rspCode r = 0#2

/-- `disarm()` twice: the same `S` as once, the same pins, one more LOW on the wire (R191, R72). -/
def Obligations.DisarmIsIdempotentOnState : Prop :=
  ∀ s : State, s.shadow.wf = true → ∃ t u, exec .disarm s = .next t ∧ exec .disarm t = .next u ∧
    t.esc.armed = false ∧ t.esc.throttle = 0#11 ∧ u.esc = t.esc ∧ u.nv = t.nv ∧ u.response = t.response ∧
    u.wire = t.wire ++ [.level s.esc.pin .low] ∧ ∀ q, u.shadow.read q = t.shadow.read q

/-- `setDirection(dir)`: the operand from its code; CapabilityError under PWM whatever the operand, else ValidationError on an
unrecognized one, nothing changed; else, armed or not, the label, one save, kept or lost by the store's next answer (R69), and the burst of 0x028A for Forward, of 0x02A8 for
Reverse, nothing for Brake; no other field, key or pin (R196). -/
def Obligations.SetDirectionMeaning : Prop :=
  (∀ w : CmdWord, w.extractLsb' 8 24 = 0x600000#24 → decode (.cmd w) = .ok (.setDirection (
    if w.extractLsb' 0 8 = 0#8 then .known .forward else if w.extractLsb' 0 8 = 1#8 then .known .reverse
    else if w.extractLsb' 0 8 = 2#8 then .known .brake else .unrecognized (w.extractLsb' 0 8).toNat))) ∧
  (∀ (dir : DirectionArg) (s : State), s.esc.protocol = .pwm →
    ∃ r, exec (.setDirection dir) s = .next { s with response := some r } ∧ rspCode r = 2#2) ∧
  (∀ (code : Nat) (s : State), s.esc.protocol ≠ .pwm →
    ∃ r, exec (.setDirection (.unrecognized code)) s = .next { s with response := some r } ∧ rspCode r = 1#2) ∧
  (∀ (d : Direction) (s : State) (g : Grade), gradeOf s.esc.protocol = some g →
    let burst := fun f : FrameWord =>
      (List.replicate 9 (frameEvents s.esc.pin (timing g) f ++ [.wait 1000000])).flatten ++ frameEvents s.esc.pin (timing g) f
    ∃ t, exec (.setDirection (.known d)) s = .next t ∧
      t.esc = { s.esc with direction := d } ∧
      t.wire = s.wire ++ (match d with
        | .forward => burst 0x028A#16
        | .reverse => burst 0x02A8#16
        | .brake => []) ∧
      t.saveAnswers = s.saveAnswers.tail ∧ t.nv.load .pin = s.nv.load .pin ∧ t.nv.load .protocol = s.nv.load .protocol ∧
      (t.nv.load .direction = s.nv.load .direction ∨ t.nv.load .direction = some (.str (match d with
        | .forward => "FORWARD"
        | .reverse => "REVERSE"
        | .brake => "BRAKE"))) ∧
      (∀ rest, s.saveAnswers = true :: rest → t.nv.load .direction = some (.str (match d with
        | .forward => "FORWARD"
        | .reverse => "REVERSE"
        | .brake => "BRAKE"))) ∧
      (∀ rest, s.saveAnswers = false :: rest → t.nv = s.nv) ∧
      (s.shadow.wf = true → ∀ q, q ≠ s.esc.pin → t.shadow.read q = s.shadow.read q) ∧
      t.inputs = s.inputs ∧ ∃ r, t.response = some r ∧ rspCode r = 0#2)

/-- `brake()`: CapabilityError under PWM, armed or not; else NotArmedError while disarmed, nothing changed; else direction
Brake, throttle 0, still armed, the burst of 0x0000, nothing saved (R198). -/
def Obligations.BrakeMeaning : Prop :=
  decode (.cmd 0x70000000#32) = .ok .brake ∧
  (∀ s : State, s.esc.protocol = .pwm → ∃ r, exec .brake s = .next { s with response := some r } ∧ rspCode r = 2#2) ∧
  (∀ s : State, s.esc.protocol ≠ .pwm → s.esc.armed = false →
    ∃ r, exec .brake s = .next { s with response := some r } ∧ rspCode r = 3#2) ∧
  (∀ (s : State) (g : Grade), gradeOf s.esc.protocol = some g → s.esc.armed = true →
    ∃ g' r, exec .brake s = .next { s with
        esc := { s.esc with direction := .brake, throttle := 0#11 }
        wire := s.wire ++ ((List.replicate 9 (frameEvents s.esc.pin (timing g) 0x0000#16 ++ [.wait 1000000])).flatten ++
          frameEvents s.esc.pin (timing g) 0x0000#16)
        shadow := g'
        response := some r } ∧ rspCode r = 0#2 ∧
      (s.shadow.wf = true → ∀ q, q ≠ s.esc.pin → g'.read q = s.shadow.read q))

/-! ### The tick (45_control_loop.md) -/

/-- The idle tick: disarmed or at throttle 0, nothing is appended and nothing written, and wherever the invariants hold the pin
stays LOW (R212; that the response port is empty after a tick is log 5). -/
def Obligations.IdleTickSendsNothing : Prop :=
  ∀ s : State, s.esc.armed = false ∨ s.esc.throttle = 0#11 →
    exec .tick s = .next { s with response := none } ∧ (s.Inv → (s.shadow.read s.esc.pin).level = .low)

/-- The PWM tick: one pulse of the stored width on the pin in use, 20 ms in all, and no field of `S` or `NV` written (R151,
R210, R215; the response port is log 5). -/
def Obligations.PwmTickSendsOnePulse : Prop :=
  ∀ s : State, s.esc.armed = true → s.esc.protocol = .pwm →
    1000 ≤ s.esc.throttle.toNat → s.esc.throttle.toNat ≤ 2000 →
    ∃ pulse g, exec .tick s = .next { s with wire := s.wire ++ pulse, shadow := g, response := none } ∧
      pulse = [.level s.esc.pin .high, .wait (s.esc.throttle.toNat * 1000), .level s.esc.pin .low,
        .wait ((20000 - s.esc.throttle.toNat) * 1000)] ∧
      traceDuration pulse = 20000000 ∧
      (s.shadow.wf = true → g.read s.esc.pin = { mode := (s.shadow.read s.esc.pin).mode, level := .low } ∧
        ∀ q, q ≠ s.esc.pin → g.read q = s.shadow.read q)

/-- The DShot tick: one frame of the stored value, command band or not, on the pin in use, and no field of `S` or `NV` written
(R210, R211, R216; the response port is log 5). -/
def Obligations.DshotTickSendsOneFrame : Prop :=
  ∀ (s : State) (g : Grade), s.esc.armed = true → s.esc.throttle ≠ 0#11 → gradeOf s.esc.protocol = some g →
    ∃ g', exec .tick s = .next { s with
        wire := s.wire ++ frameEvents s.esc.pin (timing g) (encodeFrame s.esc.throttle)
        shadow := g'
        response := none } ∧
      (s.shadow.wf = true → g'.read s.esc.pin = { mode := (s.shadow.read s.esc.pin).mode, level := .low } ∧
        ∀ q, q ≠ s.esc.pin → g'.read q = s.shadow.read q)

/-! ### Reset (70_reset_and_hazards.md) -/

/-- The value of every piece of state after reset, from any state and any store, which is blank on a device never configured
(R40, R260, R262, R264). The model's choices in it: that `State.reset` is such a device (log 11), and that reset leaves the
words to come as they are (log 19). -/
def Obligations.ResetRebuildsTheState : Prop :=
  (∀ k, State.reset.nv.load k = none) ∧
  ∀ s : State, ∃ t, exec .reset s = .next t ∧
    (∀ p : Pin, s.nv.load .pin = some (.int p.val) → t.esc.pin = p) ∧
    ((∀ p : Pin, s.nv.load .pin ≠ some (.int p.val)) → t.esc.pin = 5) ∧
    t.esc.protocol = (if s.nv.load .protocol = some (.str "DSHOT150") then .dshot150
      else if s.nv.load .protocol = some (.str "DSHOT300") then .dshot300
      else if s.nv.load .protocol = some (.str "DSHOT600") then .dshot600 else .pwm) ∧
    t.esc.direction = (if t.esc.protocol = .pwm then .forward
      else if s.nv.load .direction = some (.str "REVERSE") then .reverse
      else if s.nv.load .direction = some (.str "BRAKE") then .brake else .forward) ∧
    t.esc.throttle = (if t.esc.protocol = .pwm then 1000#11 else 48#11) ∧
    t.esc.armed = false ∧
    t.esc.directionSupported = decide (t.esc.protocol ≠ .pwm) ∧
    t.nv = s.nv ∧
    t.shadow.read t.esc.pin = { mode := .output, level := .low } ∧
    (∀ q, q ≠ t.esc.pin → t.shadow.read q = { mode := .unknown, level := .unknown }) ∧
    t.wire = [.mode t.esc.pin .output, .level t.esc.pin .low] ∧
    t.response = none ∧ t.inputs = s.inputs

/-- `State.reset` is what the reset procedure makes of a device never configured (R40; log 11), the model's own three fields
apart. -/
def Obligations.ResetOfABlankDeviceIsStateReset : Prop :=
  ∀ s : State, s.nv = { pin := none, protocol := none, direction := none } →
    exec .reset s = .next { State.reset with
      inputs := s.inputs, saveAnswers := s.saveAnswers, drawCount := s.drawCount }

/-! ### The FRAME rows (30_encoding.md R90, R114) -/

/-- Where the FRAME rows complete, the MODEL'S CHOICE being that each stands for the step in which the engine sends that frame
(log 1): armed at this throttle, FRAME is one frame; armed, FRAME.motor_stop is `brake` with its burst; FRAME.spin_direction_normal
and FRAME.command_21 are `setDirection` to Forward and to Reverse with theirs. All of it under a DShot grade. -/
def Obligations.FrameRowsTransmit : Prop :=
  ∀ (s : State) (g : Grade), gradeOf s.esc.protocol = some g →
    let burst := fun f : FrameWord =>
      (List.replicate 9 (frameEvents s.esc.pin (timing g) f ++ [.wait 1000000])).flatten ++ frameEvents s.esc.pin (timing g) f
    let others := fun g' : PinSpace => s.shadow.wf = true → ∀ q, q ≠ s.esc.pin → g'.read q = s.shadow.read q
    (∀ v, v ≠ 0#11 → s.esc.throttle = v → s.esc.armed = true → ∃ g', exec (.frame v) s = .next { s with
      wire := s.wire ++ frameEvents s.esc.pin (timing g) (encodeFrame v), shadow := g', response := none } ∧ others g') ∧
    (s.esc.armed = true → ∃ g' r, exec .frameMotorStop s = .next { s with
      esc := { s.esc with direction := .brake, throttle := 0#11 }
      wire := s.wire ++ burst 0x0000#16, shadow := g', response := some r } ∧ rspCode r = 0#2 ∧ others g') ∧
    (∃ t r, exec .frameSpinDirectionNormal s = .next t ∧ t.esc = { s.esc with direction := .forward } ∧
      t.wire = s.wire ++ burst 0x028A#16 ∧ t.response = some r ∧ rspCode r = 0#2 ∧ others t.shadow ∧
      t.inputs = s.inputs ∧ t.saveAnswers = s.saveAnswers.tail ∧
      t.nv.load .pin = s.nv.load .pin ∧ t.nv.load .protocol = s.nv.load .protocol ∧
      (t.nv.load .direction = s.nv.load .direction ∨ t.nv.load .direction = some (.str "FORWARD"))) ∧
    (∃ t r, exec .frameCommand21 s = .next t ∧ t.esc = { s.esc with direction := .reverse } ∧
      t.wire = s.wire ++ burst 0x02A8#16 ∧ t.response = some r ∧ rspCode r = 0#2 ∧ others t.shadow ∧
      t.inputs = s.inputs ∧ t.saveAnswers = s.saveAnswers.tail ∧
      t.nv.load .pin = s.nv.load .pin ∧ t.nv.load .protocol = s.nv.load .protocol ∧
      (t.nv.load .direction = s.nv.load .direction ∨ t.nv.load .direction = some (.str "REVERSE")))

/-- The MODEL'S CHOICE for the FRAME rows (logs 1, 2): each is the event of the hardware that sends that frame, whole, where
that event sends it, and nothing but an empty response port everywhere else, so no FRAME row adds a behaviour. -/
def Obligations.FrameRowsAreStepsOfTheHardware : Prop :=
  ∀ s : State,
    (∀ v, (s.esc.armed = true ∧ s.esc.throttle = v ∧ v ≠ 0#11 ∧ s.esc.protocol ≠ .pwm →
        exec (.frame v) s = exec .tick s) ∧
      (¬ (s.esc.armed = true ∧ s.esc.throttle = v ∧ v ≠ 0#11 ∧ s.esc.protocol ≠ .pwm) →
        exec (.frame v) s = .next { s with response := none })) ∧
    (s.esc.protocol ≠ .pwm ∧ s.esc.armed = true → exec .frameMotorStop s = exec .brake s) ∧
    (s.esc.protocol = .pwm ∨ s.esc.armed = false → exec .frameMotorStop s = .next { s with response := none }) ∧
    (s.esc.protocol ≠ .pwm → exec .frameSpinDirectionNormal s = exec (.setDirection (.known .forward)) s ∧
      exec .frameCommand21 s = exec (.setDirection (.known .reverse)) s) ∧
    (s.esc.protocol = .pwm → exec .frameSpinDirectionNormal s = .next { s with response := none } ∧
      exec .frameCommand21 s = .next { s with response := none })

/-! ### Errors and modes (60_exceptions.md) -/

/-- Every CMD word is answered, and each error has exactly the causes of R222, R223 and R224. -/
def Obligations.EveryCommandIsAnsweredWithItsCode : Prop :=
  ∀ (s : State) (c : CmdWord) (rest : List PortWord), s.inputs = .cmd c :: rest →
    ∃ t r, step s = .next t ∧ t.response = some r ∧
      (rspCode r = 1#2 ↔
        (∃ e, decode (.cmd c) = .error e) ∨
        (∃ v protocol, decode (.cmd c) = .ok (.configure (some v) protocol) ∧ (v < 0 ∨ 39 < v)) ∨
        (∃ pin code, decode (.cmd c) = .ok (.configure pin (some (.unrecognized code)))) ∨
        (∃ code, decode (.cmd c) = .ok (.setDirection (.unrecognized code)) ∧ s.esc.protocol ≠ .pwm)) ∧
      (rspCode r = 2#2 ↔ s.esc.protocol = .pwm ∧
        ((∃ dir, decode (.cmd c) = .ok (.setDirection dir)) ∨ decode (.cmd c) = .ok .brake)) ∧
      (rspCode r = 3#2 ↔ decode (.cmd c) = .ok .brake ∧ s.esc.protocol ≠ .pwm ∧ s.esc.armed = false)

/-- What an error records: nothing but the code in the response (R225, an inference the spec marks as its own). -/
def Obligations.AnErrorChangesNothingElse : Prop :=
  ∀ (s t : State) (w : PortWord) (rest : List PortWord) (r : RspWord), s.inputs = w :: rest → step s = .next t →
    t.response = some r → rspCode r ≠ 0#2 → t = { s with inputs := rest, response := some r }

/-- The transition table of the mode: only arm enters Armed, only disarm and reset leave it (R236, an inference the spec
marks as its own; R237). -/
def Obligations.ModeTransitions : Prop :=
  ∀ (i : Instr) (s t : State), exec i s = .next t →
    t.esc.armed = (match i with
      | .arm => true
      | .disarm => false
      | .reset => false
      | _ => s.esc.armed)

/-- The access table's write columns: a field changes only in the steps that write it (10_state.md R42, an
inference the spec marks as its own), the FRAME rows writing as the events they stand for (log 1). -/
def Obligations.FieldsChangeOnlyUnderTheirWriters : Prop :=
  ∀ (i : Instr) (s t : State), exec i s = .next t →
    let labels := (∃ d, i = .setDirection d) ∨ i = .frameSpinDirectionNormal ∨ i = .frameCommand21
    let brakes := i = .brake ∨ i = .frameMotorStop
    let configures := ∃ p q, i = .configure p q
    (t.esc.pin ≠ s.esc.pin → i = .reset ∨ configures) ∧
    (t.esc.protocol ≠ s.esc.protocol → i = .reset ∨ configures) ∧
    (t.esc.armed ≠ s.esc.armed → i = .reset ∨ i = .arm ∨ i = .disarm) ∧
    (t.esc.throttle ≠ s.esc.throttle →
      i = .reset ∨ i = .arm ∨ i = .disarm ∨ brakes ∨ (∃ v, i = .setThrottle v) ∨ configures) ∧
    (t.esc.direction ≠ s.esc.direction → i = .reset ∨ brakes ∨ labels ∨ configures) ∧
    (t.nv ≠ s.nv → labels ∨ configures) ∧
    (t.wire ≠ s.wire →
      i = .reset ∨ i = .disarm ∨ brakes ∨ i = .tick ∨ (∃ v, i = .frame v) ∨ labels ∨ configures)

/-- Where a meaning stops: `tick` alone, at a pulse width outside the precondition of `sendPwm` (R152, U2; log 7). -/
def Obligations.OnlyAnOutOfRangePulseStops : Prop :=
  ∀ (i : Instr) (s : State),
    (∀ r, exec i s ≠ .refused r) ∧
    ∀ f, exec i s = .fault f ↔ f = .pwmWidthOutOfRange ∧ i = .tick ∧ s.esc.armed = true ∧ s.esc.protocol = .pwm ∧
      s.esc.throttle ≠ 0#11 ∧ (s.esc.throttle.toNat < 1000 ∨ 2000 < s.esc.throttle.toNat)

/-! ### Whole-machine rules -/

/-- The invariants hold right after reset (10_state.md R27, R35; 42_signal_transmitter.md R160; R27 and R160
are inferences the spec marks as its own; `State.reset` is log 11). -/
def Obligations.ResetMeetsTheInvariants : Prop :=
  State.reset.Inv ∧ State.reset.nv.Usable

/-- A reset re-establishes the invariants from any state and any store, a foreign one too (R27, R261). -/
def Obligations.AnyResetEstablishesTheInvariants : Prop :=
  ∀ s t : State, exec .reset s = .next t → t.Inv

/-- Every step keeps the invariants: INV2, INV3, INV6, `G` the canonical fold of `W`, and the pin in use an output at LOW (R27,
R35, R160). -/
def Obligations.EveryStepKeepsTheInvariants : Prop :=
  ∀ s t : State, s.Inv → step s = .next t → t.Inv

/-- Every step keeps the store's cells blank or usable: the engine saves only values that pass its own tests (R261). -/
def Obligations.EveryStepKeepsTheStoreUsable : Prop :=
  ∀ s t : State, s.nv.Usable → step s = .next t → t.nv.Usable

/-- No run stops: from a state that meets the invariants, with a word that can be there or none, a step goes on to a state
that meets them again (R18, R226, R27). -/
def Obligations.InvariantStatesNeverStop : Prop :=
  ∀ s : State, s.Inv → (∀ w rest, s.inputs = w :: rest → presentable w = true) → ∃ t, step s = .next t ∧ t.Inv

/-- `W` is append-only, and `G` follows exactly what is appended, for every step but a reset (10_state.md R35, R36). -/
def Obligations.TheTraceOnlyGrows : Prop :=
  ∀ s t : State, step s = .next t → (∀ rest, s.inputs ≠ .strobe 0b10#2 :: rest) →
    ∃ es, t.wire = s.wire ++ es ∧ t.shadow = es.foldl PinSpace.record s.shadow

/-- No throttle signal while disarmed: in any step but a reset taken disarmed the pin goes HIGH only in the burst of a
`setDirection` to Forward or Reverse (or of the FRAME row that stands for it, log 1), and a tick or a FRAME sends nothing (R23,
R213, R237; 70_reset_and_hazards.md R267). -/
def Obligations.DisarmedPinRisesOnlyForADirection : Prop :=
  ∀ (i : Instr) (s t : State) (es : List WireEvent), i ≠ .reset → s.esc.armed = false →
    exec i s = .next t → t.wire = s.wire ++ es →
    (i = .tick ∨ (∃ v, i = .frame v) ∨ i = .frameMotorStop → es = []) ∧
    (∀ p, .level p .high ∈ es →
      p = s.esc.pin ∧ s.esc.protocol ≠ .pwm ∧
      ((∃ d, d ≠ .brake ∧ i = .setDirection (.known d)) ∨ i = .frameSpinDirectionNormal ∨ i = .frameCommand21))

/-- The two sources of what reaches the pin (R175; INV5 of R27; R176, R213): any step but a reset appends events with no rise of
a pin, or the one throttle signal of `S.throttle`, armed, by the tick (or the FRAME row that stands for it, log 1), or the one
burst of a special command, by `brake` or `setDirection` (or their rows). R175, R27 and R213 are inferences the spec marks as
its own. -/
def Obligations.TransmissionsHaveTwoSources : Prop :=
  ∀ (i : Instr) (s t : State), i ≠ .reset → exec i s = .next t → ∃ es, t.wire = s.wire ++ es ∧
    ((∀ p, .level p .high ∉ es) ∨
     ((i = .tick ∨ i = .frame s.esc.throttle) ∧ s.esc.armed = true ∧ s.esc.throttle ≠ 0#11 ∧
      es = (match gradeOf s.esc.protocol with
        | some g => frameEvents s.esc.pin (timing g) (encodeFrame s.esc.throttle)
        | none => [.level s.esc.pin .high, .wait (s.esc.throttle.toNat * 1000), .level s.esc.pin .low,
            .wait ((20000 - s.esc.throttle.toNat) * 1000)])) ∨
     ∃ g f, gradeOf s.esc.protocol = some g ∧
      es = (List.replicate 9 (frameEvents s.esc.pin (timing g) f ++ [.wait 1000000])).flatten ++
        frameEvents s.esc.pin (timing g) f ∧
      ((f = 0x0000#16 ∧ s.esc.armed = true ∧ (i = .brake ∨ i = .frameMotorStop)) ∨
       (f = 0x028A#16 ∧ (i = .setDirection (.known .forward) ∨ i = .frameSpinDirectionNormal)) ∨
       (f = 0x02A8#16 ∧ (i = .setDirection (.known .reverse) ∨ i = .frameCommand21))))

/-- No rule reads `W`, and the engine never reads a pin: from states that differ only in `W` and `G` an instruction gives the
same `S`, `NV` and response, and appends the same events (10_state.md R35, R36; 20_memory.md R61). -/
def Obligations.NoRuleReadsTheTraceOrThePins : Prop :=
  ∀ (i : Instr) (s t : State) (w : List WireEvent) (g : PinSpace), exec i s = .next t →
    ∃ t', exec i { s with wire := w, shadow := g } = .next t' ∧
      t'.esc = t.esc ∧ t'.nv = t.nv ∧ t'.response = t.response ∧ t'.inputs = t.inputs ∧
      t'.saveAnswers = t.saveAnswers ∧ t'.drawCount = t.drawCount ∧
      (i ≠ .reset → ∃ es, t.wire = s.wire ++ es ∧ t'.wire = w ++ es)

/-- No rule of transmission reads `S.direction`: it changes nothing of what goes on the wire (10_state.md R25). -/
def Obligations.DirectionLabelIsNeverTransmitted : Prop :=
  ∀ (i : Instr) (s t : State) (d : Direction), exec i s = .next t →
    ∃ t', exec i { s with esc := { s.esc with direction := d } } = .next t' ∧ t'.wire = t.wire ∧ t'.shadow = t.shadow

/-! ### The store and the operands -/

/-- Each `NvSave` is a draw: kept or lost, nothing else changed, and a lost save leaves the cell whole (20_memory.md R69). -/
def Obligations.SaveIsKeptOrLost : Prop :=
  ∀ (s : State) (k : NvKey) (v : NvValue),
    ((s.nvSave k v).nv.load k = some v ∨ (s.nvSave k v).nv.load k = s.nv.load k) ∧
    (∀ j, j ≠ k → (s.nvSave k v).nv.load j = s.nv.load j) ∧
    (s.nvSave k v).esc = s.esc ∧ (s.nvSave k v).wire = s.wire ∧ (s.nvSave k v).shadow = s.shadow ∧
    (∀ rest, s.saveAnswers = true :: rest → (s.nvSave k v).nv.load k = some v) ∧
    (∀ rest, s.saveAnswers = false :: rest → (s.nvSave k v).nv = s.nv)

/-- Saves across a reset: kept, the new pin and protocol come back disarmed at the idle value; lost, the session has them and
the reset gives what it would have given before (R69, R260, R273; vectors V141, V142, program P5). -/
def Obligations.KeptSettingsSurviveReset : Prop :=
  ∀ (s : State) (p : Pin) (q : Protocol) (b : Bool) (rest : List Bool), s.saveAnswers = b :: b :: b :: rest →
    p ≠ s.esc.pin → q ≠ s.esc.protocol →
    ∃ t u u', exec (.configure (some p.val) (some (.known q))) s = .next t ∧ t.esc.pin = p ∧ t.esc.protocol = q ∧
      exec .reset t = .next u ∧ exec .reset s = .next u' ∧
      (b = true → u.esc.pin = p ∧ u.esc.protocol = q ∧ u.esc.armed = false ∧
        u.esc.throttle = if q = .pwm then 1000#11 else 48#11) ∧
      (b = false → u.esc = u'.esc)

/-- `clamp` is total, bounded, monotone and idempotent on the integers (44_esc_controller.md R201 (a), an inference the spec
marks as its own). -/
def Obligations.ClampIsBoundedMonotoneIdempotent : Prop :=
  ∀ lo hi : Int, lo ≤ hi → ∀ v w : Int,
    lo ≤ clamp v lo hi ∧ clamp v lo hi ≤ hi ∧ (v ≤ w → clamp v lo hi ≤ clamp w lo hi) ∧
    clamp (clamp v lo hi) lo hi = clamp v lo hi ∧ (lo ≤ v → v ≤ hi → clamp v lo hi = v)
end

