-- ==== Sys2Proof/Laws/PinSpace.lean ====
section
/-!
SUPPORT. Laws/PinSpace.lean: read after write, and every operation on the pin space keeps its canonical form.
-/

namespace Sys2Proof.Machine

namespace PinSpace

@[simp] theorem read_nil (p : Pin) : read [] p = unknownCell := rfl

theorem read_cons (q p : Pin) (c : PinCell) (g : PinSpace) :
    read ((q, c) :: g) p = if q = p then c else read g p := rfl

/-- The canonical form, entry by entry. -/
theorem wf_iff (g : PinSpace) :
    g.wf = true ↔ (g.map Prod.fst).Pairwise (· < ·) ∧ ∀ e ∈ g, e.2 ≠ unknownCell := by
  simp [wf]

@[simp] theorem wf_nil : wf [] = true := rfl

theorem wf_cons (q : Pin) (c : PinCell) (g : PinSpace) :
    wf ((q, c) :: g) = true ↔ c ≠ unknownCell ∧ (∀ e ∈ g, q < e.1) ∧ g.wf = true := by
  simp only [wf_iff, List.map_cons, List.pairwise_cons, List.mem_map, List.mem_cons]
  constructor
  · rintro ⟨⟨hlt, hp⟩, hne⟩
    exact ⟨hne (q, c) (.inl rfl), fun e he => hlt _ ⟨e, he, rfl⟩, hp, fun e he => hne e (.inr he)⟩
  · rintro ⟨hc, hlt, hp, hne⟩
    refine ⟨⟨?_, hp⟩, ?_⟩
    · rintro a ⟨e, he, rfl⟩; exact hlt e he
    · rintro e (rfl | he)
      · exact hc
      · exact hne e he

/-- A pin below every listed one reads as an unlisted pin does. -/
theorem read_of_lt (g : PinSpace) (p : Pin) (h : ∀ e ∈ g, p < e.1) : read g p = unknownCell := by
  induction g with
  | nil => rfl
  | cons e g ih =>
    obtain ⟨q, c⟩ := e
    have hq : q ≠ p := fun h' => by have := h (q, c) (by simp); subst h'; exact lt_irrefl _ this
    rw [read_cons, if_neg hq]
    exact ih (fun e he => h e (by simp [he]))

theorem read_put (p r : Pin) (c : PinCell) (g : PinSpace) (h : ∀ e ∈ g, p < e.1) :
    read (put p c g) r = if p = r then c else read g r := by
  unfold put
  split
  · next hc =>
    split
    · next hp => rw [← hp, read_of_lt g p h, hc]
    · rfl
  · rfl

theorem mem_put (p : Pin) (c : PinCell) (g : PinSpace) (e : Pin × PinCell) (h : e ∈ put p c g) :
    e.1 = p ∨ e ∈ g := by
  unfold put at h
  split at h
  · exact .inr h
  · rcases List.mem_cons.1 h with h | h
    · exact .inl (by rw [h])
    · exact .inr h

theorem mem_write (g : PinSpace) (p : Pin) (c : PinCell) (e : Pin × PinCell) (h : e ∈ write g p c) :
    e.1 = p ∨ e ∈ g := by
  induction g with
  | nil => exact mem_put p c [] e h
  | cons a g ih =>
    obtain ⟨q, d⟩ := a
    unfold write at h
    split at h
    · exact mem_put p c _ e h
    · split at h
      · rcases mem_put p c g e h with h | h
        · exact .inl h
        · exact .inr (by simp [h])
      · rcases List.mem_cons.1 h with h | h
        · exact .inr (by simp [h])
        · rcases ih h with h | h
          · exact .inl h
          · exact .inr (by simp [h])

/-- Read after write, at the written pin and at every other one. -/
theorem read_write (g : PinSpace) (p r : Pin) (c : PinCell) (hg : g.wf = true) :
    read (write g p c) r = if p = r then c else read g r := by
  induction g with
  | nil => exact read_put p r c [] (by simp)
  | cons a g ih =>
    obtain ⟨q, d⟩ := a
    obtain ⟨_, hlt, hwf⟩ := (wf_cons q d g).1 hg
    unfold write
    split
    · next hpq =>
      refine read_put p r c _ ?_
      rintro e he
      rcases List.mem_cons.1 he with rfl | he
      · exact hpq
      · exact hpq.trans (hlt e he)
    · split
      · next hpq =>
        subst hpq
        rw [read_put p r c g hlt, read_cons]
        split <;> rfl
      · next hpq =>
        rw [read_cons, read_cons, ih hwf]
        by_cases hqr : q = r
        · rw [if_pos hqr, if_pos hqr, if_neg (fun h => hpq (h.trans hqr.symm))]
        · rw [if_neg hqr, if_neg hqr]

theorem put_wf (p : Pin) (c : PinCell) (g : PinSpace) (h : ∀ e ∈ g, p < e.1) (hg : g.wf = true) :
    (put p c g).wf = true := by
  unfold put
  split
  · exact hg
  · next hc => exact (wf_cons p c g).2 ⟨hc, h, hg⟩

/-- A write keeps the canonical form. -/
theorem write_wf (g : PinSpace) (p : Pin) (c : PinCell) (hg : g.wf = true) : (write g p c).wf = true := by
  induction g with
  | nil => exact put_wf p c [] (by simp) rfl
  | cons a g ih =>
    obtain ⟨q, d⟩ := a
    obtain ⟨hd, hlt, hwf⟩ := (wf_cons q d g).1 hg
    unfold write
    split
    · next hpq =>
      refine put_wf p c _ ?_ hg
      rintro e he
      rcases List.mem_cons.1 he with rfl | he
      · exact hpq
      · exact hpq.trans (hlt e he)
    · split
      · next hpq => subst hpq; exact put_wf p c g hlt hwf
      · next h1 h2 =>
        refine (wf_cons q d _).2 ⟨hd, ?_, ih hwf⟩
        intro e he
        rcases mem_write g p c e he with h | h
        · rw [h]; exact lt_of_le_of_ne (not_lt.1 h1) (Ne.symm h2)
        · exact hlt e h

/-- One event of the wire keeps the canonical form. -/
theorem record_wf (g : PinSpace) (e : WireEvent) (hg : g.wf = true) : (g.record e).wf = true := by
  cases e with
  | mode p m => exact write_wf _ _ _ hg
  | level p l => exact write_wf _ _ _ hg
  | wait n => exact hg
  | critEnter => exact hg
  | critExit => exact hg

/-- A stretch of the wire keeps the canonical form. -/
theorem foldl_record_wf (es : List WireEvent) (g : PinSpace) (hg : g.wf = true) :
    (es.foldl record g).wf = true := by
  induction es generalizing g with
  | nil => exact hg
  | cons e es ih => exact ih _ (record_wf g e hg)

theorem replay_wf (w : List WireEvent) : (replay w).wf = true :=
  foldl_record_wf w [] rfl

/-- Replaying a longer trace goes on from the shorter one's replay. -/
theorem replay_append (w es : List WireEvent) : replay (w ++ es) = es.foldl record (replay w) := by
  simp [replay]

theorem read_record_mode (g : PinSpace) (p r : Pin) (m : DriveMode) (hg : g.wf = true) :
    (g.record (.mode p m)).read r = if p = r then ⟨m.toMode, (g.read p).level⟩ else g.read r :=
  read_write g p r _ hg

theorem read_record_level (g : PinSpace) (p r : Pin) (l : DriveLevel) (hg : g.wf = true) :
    (g.record (.level p l)).read r = if p = r then ⟨(g.read p).mode, l.toLevel⟩ else g.read r :=
  read_write g p r _ hg

end PinSpace

/-- Reset's pin space has the canonical form. -/
theorem State.reset_shadow_wf : State.reset.shadow.wf = true := by decide

/-- The lone operation on the trace keeps the canonical form of the pin space. -/
theorem State.emit_shadow_wf (s : State) (es : List WireEvent) (h : s.shadow.wf = true) :
    (s.emit es).shadow.wf = true :=
  PinSpace.foldl_record_wf es s.shadow h

end Sys2Proof.Machine
end

