-- ==== Sys2Proof/Laws/State.lean ====
section
/-!
SUPPORT. Laws/State.lean: one lemma per field per named update of State.
-/

namespace Sys2Proof.Machine

section Emit
variable (s : State) (es : List WireEvent)
@[simp] theorem State.emit_esc : (s.emit es).esc = s.esc := rfl
@[simp] theorem State.emit_nv : (s.emit es).nv = s.nv := rfl
@[simp] theorem State.emit_shadow : (s.emit es).shadow = es.foldl PinSpace.record s.shadow := rfl
@[simp] theorem State.emit_wire : (s.emit es).wire = s.wire ++ es := rfl
@[simp] theorem State.emit_response : (s.emit es).response = s.response := rfl
@[simp] theorem State.emit_inputs : (s.emit es).inputs = s.inputs := rfl
@[simp] theorem State.emit_saveAnswers : (s.emit es).saveAnswers = s.saveAnswers := rfl
@[simp] theorem State.emit_drawCount : (s.emit es).drawCount = s.drawCount := rfl
end Emit

section Respond
variable (s : State) (c : ResultCode)
@[simp] theorem State.respond_esc : (s.respond c).esc = s.esc := rfl
@[simp] theorem State.respond_nv : (s.respond c).nv = s.nv := rfl
@[simp] theorem State.respond_shadow : (s.respond c).shadow = s.shadow := rfl
@[simp] theorem State.respond_wire : (s.respond c).wire = s.wire := rfl
@[simp] theorem State.respond_response : (s.respond c).response = some (rspWord c s.esc) := rfl
@[simp] theorem State.respond_inputs : (s.respond c).inputs = s.inputs := rfl
@[simp] theorem State.respond_saveAnswers : (s.respond c).saveAnswers = s.saveAnswers := rfl
@[simp] theorem State.respond_drawCount : (s.respond c).drawCount = s.drawCount := rfl
end Respond

section Silent
variable (s : State)
@[simp] theorem State.silent_esc : s.silent.esc = s.esc := rfl
@[simp] theorem State.silent_nv : s.silent.nv = s.nv := rfl
@[simp] theorem State.silent_shadow : s.silent.shadow = s.shadow := rfl
@[simp] theorem State.silent_wire : s.silent.wire = s.wire := rfl
@[simp] theorem State.silent_response : s.silent.response = none := rfl
@[simp] theorem State.silent_inputs : s.silent.inputs = s.inputs := rfl
@[simp] theorem State.silent_saveAnswers : s.silent.saveAnswers = s.saveAnswers := rfl
@[simp] theorem State.silent_drawCount : s.silent.drawCount = s.drawCount := rfl
end Silent

section Drawn
variable (s : State)
@[simp] theorem State.drawn_esc : s.drawn.esc = s.esc := by unfold State.drawn; split <;> rfl
@[simp] theorem State.drawn_nv : s.drawn.nv = s.nv := by unfold State.drawn; split <;> rfl
@[simp] theorem State.drawn_shadow : s.drawn.shadow = s.shadow := by unfold State.drawn; split <;> rfl
@[simp] theorem State.drawn_wire : s.drawn.wire = s.wire := by unfold State.drawn; split <;> rfl
@[simp] theorem State.drawn_response : s.drawn.response = s.response := by unfold State.drawn; split <;> rfl
@[simp] theorem State.drawn_inputs : s.drawn.inputs = s.inputs := by unfold State.drawn; split <;> rfl
theorem State.drawn_saveAnswers : s.drawn.saveAnswers = s.saveAnswers.tail := by
  unfold State.drawn; split <;> simp_all
theorem State.drawn_drawCount : s.drawn.drawCount = s.drawCount + (1 - s.saveAnswers.length) := by
  unfold State.drawn; split <;> simp_all
end Drawn

section NvSave
variable (s : State) (k : NvKey) (v : NvValue)
@[simp] theorem State.nvSave_esc : (s.nvSave k v).esc = s.esc := by simp [State.nvSave]
@[simp] theorem State.nvSave_nv : (s.nvSave k v).nv = if s.nextSaveKept then s.nv.keep k v else s.nv := rfl
@[simp] theorem State.nvSave_shadow : (s.nvSave k v).shadow = s.shadow := by simp [State.nvSave]
@[simp] theorem State.nvSave_wire : (s.nvSave k v).wire = s.wire := by simp [State.nvSave]
@[simp] theorem State.nvSave_response : (s.nvSave k v).response = s.response := by simp [State.nvSave]
@[simp] theorem State.nvSave_inputs : (s.nvSave k v).inputs = s.inputs := by simp [State.nvSave]
theorem State.nvSave_saveAnswers : (s.nvSave k v).saveAnswers = s.saveAnswers.tail := by
  simp [State.nvSave, State.drawn_saveAnswers]
theorem State.nvSave_drawCount : (s.nvSave k v).drawCount = s.drawCount + (1 - s.saveAnswers.length) := by
  simp [State.nvSave, State.drawn_drawCount]
end NvSave

section GpioMode
variable (s : State) (p : Pin) (m : DriveMode)
@[simp] theorem State.gpioMode_esc : (s.gpioMode p m).esc = s.esc := by simp only [State.gpioMode, State.emit_esc]
@[simp] theorem State.gpioMode_nv : (s.gpioMode p m).nv = s.nv := by simp only [State.gpioMode, State.emit_nv]
@[simp] theorem State.gpioMode_wire : (s.gpioMode p m).wire = s.wire ++ [.mode p m] := by simp only [State.gpioMode, State.emit_wire]
@[simp] theorem State.gpioMode_response : (s.gpioMode p m).response = s.response := by simp only [State.gpioMode, State.emit_response]
@[simp] theorem State.gpioMode_inputs : (s.gpioMode p m).inputs = s.inputs := by simp only [State.gpioMode, State.emit_inputs]
@[simp] theorem State.gpioMode_saveAnswers : (s.gpioMode p m).saveAnswers = s.saveAnswers := by simp only [State.gpioMode, State.emit_saveAnswers]
@[simp] theorem State.gpioMode_drawCount : (s.gpioMode p m).drawCount = s.drawCount := by simp only [State.gpioMode, State.emit_drawCount]
theorem State.gpioMode_shadow : (s.gpioMode p m).shadow = ([.mode p m] : List WireEvent).foldl PinSpace.record s.shadow := by simp only [State.gpioMode, State.emit_shadow]
end GpioMode

section GpioWrite
variable (s : State) (p : Pin) (l : DriveLevel)
@[simp] theorem State.gpioWrite_esc : (s.gpioWrite p l).esc = s.esc := by simp only [State.gpioWrite, State.emit_esc]
@[simp] theorem State.gpioWrite_nv : (s.gpioWrite p l).nv = s.nv := by simp only [State.gpioWrite, State.emit_nv]
@[simp] theorem State.gpioWrite_wire : (s.gpioWrite p l).wire = s.wire ++ [.level p l] := by simp only [State.gpioWrite, State.emit_wire]
@[simp] theorem State.gpioWrite_response : (s.gpioWrite p l).response = s.response := by simp only [State.gpioWrite, State.emit_response]
@[simp] theorem State.gpioWrite_inputs : (s.gpioWrite p l).inputs = s.inputs := by simp only [State.gpioWrite, State.emit_inputs]
@[simp] theorem State.gpioWrite_saveAnswers : (s.gpioWrite p l).saveAnswers = s.saveAnswers := by simp only [State.gpioWrite, State.emit_saveAnswers]
@[simp] theorem State.gpioWrite_drawCount : (s.gpioWrite p l).drawCount = s.drawCount := by simp only [State.gpioWrite, State.emit_drawCount]
theorem State.gpioWrite_shadow : (s.gpioWrite p l).shadow = ([.level p l] : List WireEvent).foldl PinSpace.record s.shadow := by simp only [State.gpioWrite, State.emit_shadow]
end GpioWrite

section SendPwm
variable (s : State) (w : PulseWidth)
@[simp] theorem State.sendPwm_esc : (s.sendPwm w).esc = s.esc := by simp only [State.sendPwm, State.emit_esc]
@[simp] theorem State.sendPwm_nv : (s.sendPwm w).nv = s.nv := by simp only [State.sendPwm, State.emit_nv]
@[simp] theorem State.sendPwm_wire : (s.sendPwm w).wire = s.wire ++ pwmEvents s.esc.pin w := by simp only [State.sendPwm, State.emit_wire]
@[simp] theorem State.sendPwm_response : (s.sendPwm w).response = s.response := by simp only [State.sendPwm, State.emit_response]
@[simp] theorem State.sendPwm_inputs : (s.sendPwm w).inputs = s.inputs := by simp only [State.sendPwm, State.emit_inputs]
@[simp] theorem State.sendPwm_saveAnswers : (s.sendPwm w).saveAnswers = s.saveAnswers := by simp only [State.sendPwm, State.emit_saveAnswers]
@[simp] theorem State.sendPwm_drawCount : (s.sendPwm w).drawCount = s.drawCount := by simp only [State.sendPwm, State.emit_drawCount]
theorem State.sendPwm_shadow : (s.sendPwm w).shadow = (pwmEvents s.esc.pin w).foldl PinSpace.record s.shadow := by simp only [State.sendPwm, State.emit_shadow]
end SendPwm

section SendDShot
variable (s : State) (c : Parameters) (v : Value) (g : Grade)
@[simp] theorem State.sendDShot_esc : (s.sendDShot c v g).esc = s.esc := by simp only [State.sendDShot, State.emit_esc]
@[simp] theorem State.sendDShot_nv : (s.sendDShot c v g).nv = s.nv := by simp only [State.sendDShot, State.emit_nv]
@[simp] theorem State.sendDShot_wire : (s.sendDShot c v g).wire = s.wire ++ frameEvents s.esc.pin (c.timing.row g) (encodeFrame v) := by simp only [State.sendDShot, State.emit_wire]
@[simp] theorem State.sendDShot_response : (s.sendDShot c v g).response = s.response := by simp only [State.sendDShot, State.emit_response]
@[simp] theorem State.sendDShot_inputs : (s.sendDShot c v g).inputs = s.inputs := by simp only [State.sendDShot, State.emit_inputs]
@[simp] theorem State.sendDShot_saveAnswers : (s.sendDShot c v g).saveAnswers = s.saveAnswers := by simp only [State.sendDShot, State.emit_saveAnswers]
@[simp] theorem State.sendDShot_drawCount : (s.sendDShot c v g).drawCount = s.drawCount := by simp only [State.sendDShot, State.emit_drawCount]
theorem State.sendDShot_shadow : (s.sendDShot c v g).shadow = (frameEvents s.esc.pin (c.timing.row g) (encodeFrame v)).foldl PinSpace.record s.shadow := by simp only [State.sendDShot, State.emit_shadow]
end SendDShot

section SendCommand
variable (s : State) (c : Parameters) (cmd : SpecialCommand) (g : Grade)
@[simp] theorem State.sendCommand_esc : (s.sendCommand c cmd g).esc = s.esc := by simp only [State.sendCommand, State.emit_esc]
@[simp] theorem State.sendCommand_nv : (s.sendCommand c cmd g).nv = s.nv := by simp only [State.sendCommand, State.emit_nv]
@[simp] theorem State.sendCommand_wire : (s.sendCommand c cmd g).wire = s.wire ++ burstEvents c.retry s.esc.pin (c.timing.row g) (encodeFrame (Config.commandValue cmd)) := by simp only [State.sendCommand, State.emit_wire]
@[simp] theorem State.sendCommand_response : (s.sendCommand c cmd g).response = s.response := by simp only [State.sendCommand, State.emit_response]
@[simp] theorem State.sendCommand_inputs : (s.sendCommand c cmd g).inputs = s.inputs := by simp only [State.sendCommand, State.emit_inputs]
@[simp] theorem State.sendCommand_saveAnswers : (s.sendCommand c cmd g).saveAnswers = s.saveAnswers := by simp only [State.sendCommand, State.emit_saveAnswers]
@[simp] theorem State.sendCommand_drawCount : (s.sendCommand c cmd g).drawCount = s.drawCount := by simp only [State.sendCommand, State.emit_drawCount]
theorem State.sendCommand_shadow : (s.sendCommand c cmd g).shadow = (burstEvents c.retry s.esc.pin (c.timing.row g) (encodeFrame (Config.commandValue cmd))).foldl PinSpace.record s.shadow := by simp only [State.sendCommand, State.emit_shadow]
end SendCommand

section Answers
variable (s : State) (c : ResultCode)
@[simp] theorem State.raise_eq : s.raise c = .next (s.respond c) := rfl
@[simp] theorem State.returnOk_eq : s.returnOk = .next (s.respond .ok) := rfl
end Answers

end Sys2Proof.Machine
end

