-- ==== Sys2Proof/Laws/Ops.lean ====
section
/-!
SUPPORT. Laws/Ops.lean: one lemma per shared operation that says what it can do; the store and its draws; operands.
-/

namespace Sys2Proof.Machine

/-! ### The trace -/

@[simp] theorem State.emit_nil (s : State) : s.emit [] = s := by simp [State.emit]

theorem State.emit_emit (s : State) (a b : List WireEvent) : (s.emit a).emit b = s.emit (a ++ b) := by
  simp [State.emit]

theorem traceDuration_append (a b : List WireEvent) : traceDuration (a ++ b) = traceDuration a + traceDuration b := by
  simp [traceDuration]

/-- Appending events keeps `G` the fold of `W`. -/
theorem State.emit_replay (s : State) (es : List WireEvent) (h : s.shadow = PinSpace.replay s.wire) :
    (s.emit es).shadow = PinSpace.replay (s.emit es).wire := by
  simp [PinSpace.replay_append, h]

/-! ### The store -/

@[simp] theorem NvStore.load_keep_same (nv : NvStore) (k : NvKey) (v : NvValue) : (nv.keep k v).load k = some v := by
  cases k <;> rfl

theorem NvStore.load_keep_other (nv : NvStore) (k j : NvKey) (v : NvValue) (h : k ≠ j) :
    (nv.keep k v).load j = nv.load j := by
  cases k <;> cases j <;> first | rfl | exact absurd rfl h

/-- A save leaves the store as it is or keeps the one key (20_memory.md R69). -/
theorem State.nvSave_cases (s : State) (k : NvKey) (v : NvValue) :
    (s.nvSave k v).nv = s.nv ∨ (s.nvSave k v).nv = s.nv.keep k v := by
  cases h : s.nextSaveKept <;> simp [h]

/-- With the store's answer given, the save is that answer. -/
theorem State.nextSaveKept_of_answer (s : State) (b : Bool) (rest : List Bool) (h : s.saveAnswers = b :: rest) :
    s.nextSaveKept = b := by
  simp [State.nextSaveKept, h]

/-! ### Operands -/

theorem clamp_mem (v lo hi : Int) (h : lo ≤ hi) : lo ≤ clamp v lo hi ∧ clamp v lo hi ≤ hi := by
  unfold clamp; split <;> [skip; split] <;> omega

/-- An integer names a pin exactly when it is in [0,39]. -/
theorem pinOfInt_eq_some (v : Int) (p : Pin) : pinOfInt v = some p ↔ v = (p.val : Int) := by
  obtain ⟨n, hn⟩ := p
  unfold pinOfInt
  split
  · next h =>
    simp only [Config.pinMin, Config.pinMax] at h
    rw [Option.some.injEq, Fin.mk.injEq]
    show v.toNat = n ↔ v = (n : Int)
    omega
  · next h =>
    simp only [Config.pinMin, Config.pinMax] at h
    constructor
    · rintro ⟨⟩
    · intro h'; change v = (n : Int) at h'; omega

theorem pinOfInt_eq_none (v : Int) : pinOfInt v = none ↔ v < 0 ∨ 39 < v := by
  unfold pinOfInt Config.pinMin Config.pinMax
  split <;> simp <;> omega

@[simp] theorem protocolOfName_protocolName (p : Protocol) : protocolOfName (protocolName p) = some p := by
  cases p <;> decide

@[simp] theorem directionOfName_directionName (d : Direction) : directionOfName (directionName d) = some d := by
  cases d <;> decide

theorem gradeOf_eq_none (p : Protocol) : gradeOf p = none ↔ p = .pwm := by
  cases p <;> simp [gradeOf]

theorem gradeOf_isSome (e : EscState) : (gradeOf e.protocol).isSome = e.directionSupported := by
  cases h : e.protocol <;> simp [gradeOf, EscState.directionSupported, h]

/-! ### Inputs and rejected words -/

@[simp] theorem State.fetch_nil (s : State) (h : s.inputs = []) : s.fetch = none := by
  simp [State.fetch, h]

theorem State.fetch_cons (s : State) (w : PortWord) (rest : List PortWord) (h : s.inputs = w :: rest) :
    s.fetch = some (w, { s with inputs := rest }) := by
  simp [State.fetch, h]

/-- A rejected word goes on only by answering ValidationError or by doing nothing. -/
theorem rejectWord_next (r : DecodeError) (s t : State) (h : rejectWord r s = .next t) :
    t = s.respond .validationError ∨ t = s := by
  cases r <;> simp [rejectWord, State.raise] at h <;> simp [h]

end Sys2Proof.Machine
end

