-- ==== Sys2Proof/Laws/Transmitter.lean ====
section
/-!
SUPPORT. Laws/Transmitter.lean: what the transmitter's event lists do to the pin space, and their building blocks.
-/

namespace Sys2Proof.Machine

/-- A list of events that touches only the level of pin `p` and leaves it LOW. -/
def EndsLow (p : Pin) (es : List WireEvent) : Prop :=
  ∀ g : PinSpace, g.wf = true →
    ((es.foldl PinSpace.record g).read p = ⟨(g.read p).mode, .low⟩) ∧
    ∀ r, r ≠ p → (es.foldl PinSpace.record g).read r = g.read r

theorem EndsLow.append {p : Pin} {a b : List WireEvent} (ha : EndsLow p a) (hb : EndsLow p b) : EndsLow p (a ++ b) := by
  intro g hg
  rw [List.foldl_append]
  obtain ⟨h1, h2⟩ := ha g hg
  obtain ⟨h3, h4⟩ := hb _ (PinSpace.foldl_record_wf a g hg)
  exact ⟨by rw [h3, h1], fun r hr => by rw [h4 r hr, h2 r hr]⟩

/-- Events that are no pin event change no pin. -/
theorem EndsLow.silent_right {p : Pin} {a : List WireEvent} (ha : EndsLow p a) (e : WireEvent)
    (he : ∀ g : PinSpace, g.record e = g) : EndsLow p (a ++ [e]) := by
  intro g hg
  rw [List.foldl_append]
  simpa [he] using ha g hg

theorem EndsLow.silent_left {p : Pin} {a : List WireEvent} (ha : EndsLow p a) (e : WireEvent)
    (he : ∀ g : PinSpace, g.record e = g) : EndsLow p ([e] ++ a) := by
  intro g hg
  simpa [he] using ha g hg

/-- A fall to LOW ends LOW. -/
theorem endsLow_level (p : Pin) : EndsLow p [.level p .low] := by
  intro g hg
  simp only [List.foldl_cons, List.foldl_nil, PinSpace.read_record_level _ _ _ _ hg]
  exact ⟨by simp [DriveLevel.toLevel], fun r hr => by simp [Ne.symm hr]⟩

/-- HIGH for a while, LOW for a while: the shape of a pulse and of a bit. -/
theorem endsLow_highLow (p : Pin) (a b : Nat) :
    EndsLow p [.level p .high, .wait a, .level p .low, .wait b] := by
  intro g hg
  have hg' := PinSpace.record_wf g (.level p .high) hg
  have e : ([.level p .high, .wait a, .level p .low, .wait b] : List WireEvent).foldl PinSpace.record g =
      (g.record (.level p .high)).record (.level p .low) := rfl
  rw [e]
  refine ⟨?_, fun r hr => ?_⟩
  · rw [PinSpace.read_record_level _ _ _ _ hg', if_pos rfl, PinSpace.read_record_level _ _ _ _ hg, if_pos rfl]; rfl
  · rw [PinSpace.read_record_level _ _ _ _ hg', if_neg (Ne.symm hr), PinSpace.read_record_level _ _ _ _ hg,
      if_neg (Ne.symm hr)]

theorem endsLow_pwm (p : Pin) (w : PulseWidth) : EndsLow p (pwmEvents p w) :=
  endsLow_highLow p _ _

theorem endsLow_bits (p : Pin) (t : BitTiming) (bits : List Bool) (h : bits ≠ []) :
    EndsLow p (bits.flatMap (bitEvents p t)) := by
  induction bits with
  | nil => exact absurd rfl h
  | cons b bits ih =>
    rcases bits with _ | ⟨c, bits⟩
    · simpa [bitEvents] using endsLow_highLow p _ _
    · rw [List.flatMap_cons]
      exact (endsLow_highLow p _ _).append (ih (by simp))

theorem frameBits_length (f : FrameWord) : (frameBits f).length = 16 := by
  simp [frameBits, Config.frameBits]

/-- A frame ends LOW (42_signal_transmitter.md R156). -/
theorem endsLow_frame (p : Pin) (t : BitTiming) (f : FrameWord) : EndsLow p (frameEvents p t f) := by
  have h : frameBits f ≠ [] := fun h => by have := frameBits_length f; simp [h] at this
  exact ((endsLow_bits p t _ h).silent_left .critEnter (fun _ => rfl)).silent_right .critExit (fun _ => rfl)

/-- Repeated sends end LOW, at least one being made. -/
theorem endsLow_repeat (p : Pin) (one : List WireEvent) (ns : Nat) (trailing : Bool) (h : EndsLow p one) (n : Nat) :
    EndsLow p (repeatSends one [.wait ns] trailing (n + 1)) := by
  induction n with
  | zero => cases trailing <;> simp [repeatSends, h, h.silent_right (.wait ns) (fun _ => rfl)]
  | succ n ih => exact (h.silent_right (.wait ns) (fun _ => rfl)).append ih

/-- A burst ends LOW. -/
theorem endsLow_burst (p : Pin) (t : BitTiming) (f : FrameWord) :
    EndsLow p (burstEvents Config.retryPolicy p t f) :=
  endsLow_repeat p _ _ _ (endsLow_frame p t f) 9

/-- An operation that ends LOW keeps the pin in use an output at LOW. -/
theorem State.emit_pinLow (s : State) (es : List WireEvent) (p : Pin) (h : EndsLow p es) (hw : s.shadow.wf = true)
    (hp : s.shadow.read p = ⟨.output, .low⟩) : (s.emit es).shadow.read p = ⟨.output, .low⟩ := by
  rw [State.emit_shadow, (h s.shadow hw).1, hp]

end Sys2Proof.Machine
end

