-- ==== Sys2Proof/Laws/Exec.lean ====
section
/-!
SUPPORT. Laws/Exec.lean: what each meaning can do, said once, in the terms of the shared operations; the parts of `configure`.
-/

namespace Sys2Proof.Machine

/-! ### The parts of configure -/

section SaveChanged
variable (s : State) (old : EscState)
@[simp] theorem State.saveChanged_esc : (s.saveChanged old).esc = s.esc := by
  unfold State.saveChanged; dsimp only; split_ifs <;> simp
@[simp] theorem State.saveChanged_shadow : (s.saveChanged old).shadow = s.shadow := by
  unfold State.saveChanged; dsimp only; split_ifs <;> simp
@[simp] theorem State.saveChanged_wire : (s.saveChanged old).wire = s.wire := by
  unfold State.saveChanged; dsimp only; split_ifs <;> simp
@[simp] theorem State.saveChanged_response : (s.saveChanged old).response = s.response := by
  unfold State.saveChanged; dsimp only; split_ifs <;> simp
@[simp] theorem State.saveChanged_inputs : (s.saveChanged old).inputs = s.inputs := by
  unfold State.saveChanged; dsimp only; split_ifs <;> simp

/-- Nothing changed, nothing saved. -/
theorem State.saveChanged_same (hp : s.esc.pin = old.pin) (hq : s.esc.protocol = old.protocol)
    (hd : s.esc.direction = old.direction) : s.saveChanged old = s := by
  simp [State.saveChanged, hp, hq, hd]
end SaveChanged

section MovePin
variable (s : State) (np : Option Pin)
theorem State.movePin_esc : (s.movePin np).esc = { s.esc with pin := np.getD s.esc.pin } := by
  unfold State.movePin; cases np with
  | none => rfl
  | some p => dsimp only; split_ifs with h <;> simp [h, State.gpioMode, State.gpioWrite]
/-- The events of a pin change. -/
theorem State.movePin_wire : (s.movePin np).wire = s.wire ++ (if np.getD s.esc.pin = s.esc.pin then []
    else [.mode s.esc.pin .input, .mode (np.getD s.esc.pin) .output, .level (np.getD s.esc.pin) .low]) := by
  unfold State.movePin; cases np with
  | none => simp
  | some p => dsimp only; split_ifs with h <;> simp_all [State.gpioMode, State.gpioWrite]
theorem State.movePin_shadow : (s.movePin np).shadow = (if np.getD s.esc.pin = s.esc.pin then s.shadow
    else [WireEvent.mode s.esc.pin .input, .mode (np.getD s.esc.pin) .output,
      .level (np.getD s.esc.pin) .low].foldl PinSpace.record s.shadow) := by
  unfold State.movePin; cases np with
  | none => simp
  | some p => dsimp only; split_ifs with h <;> simp_all [State.gpioMode, State.gpioWrite]
@[simp] theorem State.movePin_nv : (s.movePin np).nv = s.nv := by
  unfold State.movePin; cases np with
  | none => rfl
  | some p => dsimp only; split_ifs <;> simp [State.gpioMode, State.gpioWrite]
@[simp] theorem State.movePin_response : (s.movePin np).response = s.response := by
  unfold State.movePin; cases np with
  | none => rfl
  | some p => dsimp only; split_ifs <;> simp [State.gpioMode, State.gpioWrite]
@[simp] theorem State.movePin_inputs : (s.movePin np).inputs = s.inputs := by
  unfold State.movePin; cases np with
  | none => rfl
  | some p => dsimp only; split_ifs <;> simp [State.gpioMode, State.gpioWrite]
@[simp] theorem State.movePin_saveAnswers : (s.movePin np).saveAnswers = s.saveAnswers := by
  unfold State.movePin; cases np with
  | none => rfl
  | some p => dsimp only; split_ifs <;> simp [State.gpioMode, State.gpioWrite]
@[simp] theorem State.movePin_drawCount : (s.movePin np).drawCount = s.drawCount := by
  unfold State.movePin; cases np with
  | none => rfl
  | some p => dsimp only; split_ifs <;> simp [State.gpioMode, State.gpioWrite]
end MovePin

section ChangeProtocol
variable (s : State) (np : Option Protocol)
/-- A protocol change writes `S` and nothing else. -/
theorem State.changeProtocol_eq : s.changeProtocol np =
    { s with esc := if np.getD s.esc.protocol = s.esc.protocol then s.esc else
        { s.esc with
          protocol := np.getD s.esc.protocol
          direction := if np.getD s.esc.protocol = .pwm then .forward else s.esc.direction
          throttle := idleThrottle (np.getD s.esc.protocol) } } := by
  unfold State.changeProtocol; cases np with
  | none => simp
  | some p => dsimp only; split_ifs with h <;> simp_all
end ChangeProtocol

/-! ### Operand tests -/

theorem validatePin_error (pin : Option Int) (e : ResultCode) :
    validatePin pin = .error e ↔ e = .validationError ∧ ∃ v, pin = some v ∧ (v < 0 ∨ 39 < v) := by
  cases pin with
  | none => simp [validatePin]
  | some v =>
    cases h : pinOfInt v with
    | none => simp [validatePin, h, (pinOfInt_eq_none v).1 h, eq_comm]
    | some p =>
      have := (pinOfInt_eq_some v p).1 h
      have hp := p.isLt
      simp [validatePin, h]; omega

theorem validatePin_ok (pin : Option Int) (np : Option Pin) :
    validatePin pin = .ok np ↔ pin = np.map (fun p => (p.val : Int)) := by
  cases pin with
  | none => cases np <;> simp [validatePin]
  | some v =>
    cases h : pinOfInt v with
    | none =>
      have := (pinOfInt_eq_none v).1 h
      cases np with
      | none => simp [validatePin, h]
      | some p => have := p.isLt; simp [validatePin, h]; omega
    | some p =>
      have hv := (pinOfInt_eq_some v p).1 h
      cases np with
      | none => simp [validatePin, h]
      | some q => subst hv; simp [validatePin, h, Fin.ext_iff]

theorem validateProtocol_error (a : Option ProtocolArg) (e : ResultCode) :
    validateProtocol a = .error e ↔ e = .validationError ∧ ∃ code, a = some (.unrecognized code) := by
  rcases a with _ | _ | _ <;> simp [validateProtocol, eq_comm]

theorem validateProtocol_ok (a : Option ProtocolArg) (np : Option Protocol) :
    validateProtocol a = .ok np ↔ a = np.map .known := by
  rcases a with _ | _ | _ <;> cases np <;> simp [validateProtocol]

/-! ### What each meaning can do -/

/-- `configure`: turned away with ValidationError, or its three parts in order. -/
theorem execConfigure_cases (pin : Option Int) (protocol : Option ProtocolArg) (s : State) :
    (execConfigure pin protocol s = .next (s.respond .validationError) ∧
      ((∃ v, pin = some v ∧ (v < 0 ∨ 39 < v)) ∨ ∃ code, protocol = some (.unrecognized code))) ∨
    ∃ np nq, pin = Option.map (fun p : Pin => (p.val : Int)) np ∧ protocol = Option.map ProtocolArg.known nq ∧
      execConfigure pin protocol s =
        .next ((((s.movePin np).changeProtocol nq).saveChanged s.esc).respond .ok) := by
  unfold execConfigure
  cases h : validatePin pin with
  | error e =>
    obtain ⟨rfl, hv⟩ := (validatePin_error pin e).1 h
    exact .inl ⟨rfl, .inl hv⟩
  | ok np =>
    cases h' : validateProtocol protocol with
    | error e =>
      obtain ⟨rfl, hc⟩ := (validateProtocol_error protocol e).1 h'
      exact .inl ⟨rfl, .inr hc⟩
    | ok nq => exact .inr ⟨np, nq, (validatePin_ok pin np).1 h, (validateProtocol_ok protocol nq).1 h', rfl⟩

/-- `setDirection` under any parameters: turned away, or label, save and burst. -/
theorem setDirectionWith_cases (c : Parameters) (dir : DirectionArg) (s : State) :
    (s.esc.protocol = .pwm ∧ setDirectionWith c dir s = .next (s.respond .capabilityError)) ∨
    (s.esc.protocol ≠ .pwm ∧ (∃ code, dir = .unrecognized code) ∧
      setDirectionWith c dir s = .next (s.respond .validationError)) ∨
    ∃ g d es, gradeOf s.esc.protocol = some g ∧ dir = .known d ∧
      es = (match directionCommand d with
        | none => []
        | some cmd => burstEvents c.retry s.esc.pin (c.timing.row g) (encodeFrame (Config.commandValue cmd))) ∧
      setDirectionWith c dir s = .next (((State.nvSave { s with esc := { s.esc with direction := d } } .direction
        (.str (directionName d))).emit es).respond .ok) := by
  unfold setDirectionWith
  cases hg : gradeOf s.esc.protocol with
  | none => exact .inl ⟨(gradeOf_eq_none _).1 hg, rfl⟩
  | some g =>
    have hp : s.esc.protocol ≠ .pwm := fun h => by rw [(gradeOf_eq_none _).2 h] at hg; exact absurd hg (by simp)
    cases dir with
    | unrecognized code => exact .inr (.inl ⟨hp, ⟨code, rfl⟩, rfl⟩)
    | known d =>
      refine .inr (.inr ⟨g, d, _, rfl, rfl, rfl, ?_⟩)
      cases d <;> simp [directionCommand, State.sendCommand, State.returnOk]

/-- `brake` under any parameters: turned away, or label, throttle 0 and burst. -/
theorem brakeWith_cases (c : Parameters) (s : State) :
    (s.esc.protocol = .pwm ∧ brakeWith c s = .next (s.respond .capabilityError)) ∨
    (s.esc.protocol ≠ .pwm ∧ s.esc.armed = false ∧ brakeWith c s = .next (s.respond .notArmedError)) ∨
    ∃ g, gradeOf s.esc.protocol = some g ∧ s.esc.armed = true ∧
      brakeWith c s = .next ((State.sendCommand { s with esc := { s.esc with direction := .brake, throttle := 0#11 } }
        c .motorStop g).respond .ok) := by
  unfold brakeWith
  cases hg : gradeOf s.esc.protocol with
  | none => exact .inl ⟨(gradeOf_eq_none _).1 hg, rfl⟩
  | some g =>
    have hp : s.esc.protocol ≠ .pwm := fun h => by rw [(gradeOf_eq_none _).2 h] at hg; exact absurd hg (by simp)
    cases ha : s.esc.armed with
    | false => exact .inr (.inl ⟨hp, rfl, by simp [State.raise]⟩)
    | true => exact .inr (.inr ⟨g, rfl, rfl, by simp [State.returnOk]⟩)

theorem EscState.transmits_iff (e : EscState) : e.transmits = true ↔ e.armed = true ∧ e.throttle ≠ 0#11 := by
  have : 0 < e.throttle.toNat ↔ e.throttle ≠ 0#11 := by
    rw [Nat.pos_iff_ne_zero, ne_eq, ne_eq, ← BitVec.toNat_inj]; rfl
  simp [EscState.transmits, this]

theorem pulseWidthOf_some (v : Value) (w : PulseWidth) (h : pulseWidthOf v = some w) : w.val = v.toNat := by
  unfold pulseWidthOf at h; split at h
  · exact (congrArg Subtype.val (Option.some.inj h)).symm
  · cases h

theorem pulseWidthOf_none (v : Value) : pulseWidthOf v = none ↔ v.toNat < 1000 ∨ 2000 < v.toNat := by
  unfold pulseWidthOf Config.pwmMin Config.pwmMax; split <;> simp <;> omega

/-- `tick` under any parameters: nothing, one frame, one pulse, or the stop of R152. -/
theorem tickWith_cases (c : Parameters) (s : State) :
    ((s.esc.armed = false ∨ s.esc.throttle = 0#11) ∧ tickWith c s = .next s.silent) ∨
    (s.esc.armed = true ∧ s.esc.throttle ≠ 0#11 ∧
      ((∃ g, gradeOf s.esc.protocol = some g ∧ tickWith c s = .next (s.sendDShot c s.esc.throttle g).silent) ∨
       (s.esc.protocol = .pwm ∧ ((∃ w : PulseWidth, w.val = s.esc.throttle.toNat ∧ tickWith c s = .next (s.sendPwm w).silent) ∨
         ((s.esc.throttle.toNat < 1000 ∨ 2000 < s.esc.throttle.toNat) ∧ tickWith c s = .fault .pwmWidthOutOfRange))))) := by
  unfold tickWith
  cases ht : s.esc.transmits with
  | false =>
    refine .inl ⟨?_, by simp⟩
    by_contra hc
    rw [not_or] at hc
    have := (EscState.transmits_iff s.esc).2 ⟨by simpa using hc.1, hc.2⟩
    rw [this] at ht; cases ht
  | true =>
    obtain ⟨ha, hth⟩ := (EscState.transmits_iff s.esc).1 ht
    refine .inr ⟨ha, hth, ?_⟩
    cases hg : gradeOf s.esc.protocol with
    | some g => exact .inl ⟨g, rfl, by simp⟩
    | none =>
      refine .inr ⟨(gradeOf_eq_none _).1 hg, ?_⟩
      cases hw : pulseWidthOf s.esc.throttle with
      | some w => exact .inl ⟨w, pulseWidthOf_some _ _ hw, by simp⟩
      | none => exact .inr ⟨(pulseWidthOf_none _).1 hw, by simp⟩

/-- FRAME: the tick that sends this value, or nothing. -/
theorem frameWith_cases (c : Parameters) (v : Value) (s : State) :
    (s.esc.armed = true ∧ s.esc.throttle = v ∧ v ≠ 0#11 ∧ s.esc.protocol ≠ .pwm ∧ frameWith c v s = tickWith c s) ∨
    (¬ (s.esc.armed = true ∧ s.esc.throttle = v ∧ v ≠ 0#11 ∧ s.esc.protocol ≠ .pwm) ∧
      frameWith c v s = .next s.silent) := by
  have h : s.esc.tickSends v = true ↔
      s.esc.armed = true ∧ s.esc.throttle = v ∧ v ≠ 0#11 ∧ s.esc.protocol ≠ .pwm := by
    simp only [EscState.tickSends, Bool.and_eq_true, EscState.transmits_iff, EscState.directionSupported,
      decide_eq_true_eq, bne_iff_ne]
    exact ⟨fun ⟨⟨⟨ha, h0⟩, hp⟩, hv⟩ => ⟨ha, hv, hv ▸ h0, hp⟩, fun ⟨ha, hv, h0, hp⟩ => ⟨⟨⟨ha, hv ▸ h0⟩, hp⟩, hv⟩⟩
  unfold frameWith
  split
  · rename_i hs
    obtain ⟨ha, hv, h0, hp⟩ := h.1 hs
    exact .inl ⟨ha, hv, h0, hp, rfl⟩
  · rename_i hs
    exact .inr ⟨fun hc => hs (h.2 hc), rfl⟩

/-- FRAME.motor_stop: the `brake` that succeeds, or nothing. -/
theorem frameMotorStopWith_cases (c : Parameters) (s : State) :
    (s.esc.protocol ≠ .pwm ∧ s.esc.armed = true ∧ frameMotorStopWith c s = brakeWith c s) ∨
    ((s.esc.protocol = .pwm ∨ s.esc.armed = false) ∧ frameMotorStopWith c s = .next s.silent) := by
  unfold frameMotorStopWith EscState.brakeSends EscState.directionSupported
  cases hp : s.esc.protocol <;> cases ha : s.esc.armed <;> simp [notSent]

/-- The two direction rows: the `setDirection` that succeeds, or nothing. -/
theorem frameDirectionWith_cases (c : Parameters) (d : Direction) (s : State) :
    (s.esc.protocol ≠ .pwm ∧ frameDirectionWith c d s = setDirectionWith c (.known d) s) ∨
    (s.esc.protocol = .pwm ∧ frameDirectionWith c d s = .next s.silent) := by
  unfold frameDirectionWith EscState.directionSupported
  cases hp : s.esc.protocol <;> simp [notSent]

/-! The meanings are these at the spec's own parameters. -/

theorem execTick_eq (s : State) : execTick s = tickWith parameters s := rfl
theorem execSetDirection_eq (dir : DirectionArg) (s : State) : execSetDirection dir s = setDirectionWith parameters dir s := rfl
theorem execBrake_eq (s : State) : execBrake s = brakeWith parameters s := rfl

/-! ### What a step can do -/

/-- A step waits, or takes the word in front and runs or rejects it. -/
theorem step_cases (s : State) :
    (s.inputs = [] ∧ step s = waitForEvent s) ∨
    ∃ w rest, s.inputs = w :: rest ∧
      ((∃ i, decode w = .ok i ∧ step s = exec i { s with inputs := rest }) ∨
       ∃ r, decode w = .error r ∧ step s = rejectWord r { s with inputs := rest }) := by
  cases h : s.inputs with
  | nil => exact .inl ⟨rfl, by simp [step, h]⟩
  | cons w rest =>
    refine .inr ⟨w, rest, rfl, ?_⟩
    cases hd : decode w with
    | ok i => exact .inl ⟨i, rfl, by simp [step, State.fetch_cons s w rest h, hd]⟩
    | error r => exact .inr ⟨r, rfl, by simp [step, State.fetch_cons s w rest h, hd]⟩

end Sys2Proof.Machine
end

