-- ==== Sys2Proof/Laws/Draws.lean ====
section
/-!
SUPPORT. Laws/Draws.lean: which answer of the store each save takes.
-/

namespace Sys2Proof.Machine

/-- The answer the next save takes is answer 0. -/
theorem State.nextSaveKept_eq (s : State) : s.nextSaveKept = s.answer 0 := by
  unfold State.nextSaveKept State.answer
  split <;> simp_all

/-- The answers are those of the two fields that hold the draws. -/
theorem State.answer_congr {s t : State} (ha : s.saveAnswers = t.saveAnswers) (hc : s.drawCount = t.drawCount) (j : Nat) :
    s.answer j = t.answer j := by
  simp [State.answer, ha, hc]

/-- A save uses up one answer. -/
theorem State.nvSave_answer (s : State) (k : NvKey) (v : NvValue) (j : Nat) : (s.nvSave k v).answer j = s.answer (j + 1) := by
  simp only [State.answer, State.nvSave_saveAnswers, State.nvSave_drawCount]
  cases s.saveAnswers with
  | nil => simp [Nat.add_assoc, Nat.add_comm 1 j]
  | cons b rest => simp

/-- What one save leaves in the store. -/
theorem State.nvSave_load (s : State) (k j : NvKey) (v : NvValue) :
    (s.nvSave k v).nv.load j = if j = k ∧ s.answer 0 = true then some v else s.nv.load j := by
  rw [State.nvSave_nv, State.nextSaveKept_eq]
  by_cases hj : j = k
  · subst hj; cases s.answer 0 <;> simp
  · cases s.answer 0 <;> simp [hj, NvStore.load_keep_other _ _ _ _ (Ne.symm hj)]

end Sys2Proof.Machine
end

