-- ==== Sys2Proof/Laws/PerInstr.lean ====
section
/-!
SUPPORT. Laws/PerInstr.lean: the family EncodesItsRow: the word of a well-formed instruction agrees with its row of
spec/opcode_table.json, `match` under `mask`, at the port of the row's format.
-/

namespace Sys2Proof.Laws.EncodesItsRow

/-- A CMD word with the row's `match` under its `mask`. -/
def CmdRow (p : PortWord) (mask pattern : CmdWord) : Prop :=
  ∃ w, p = .cmd w ∧ w &&& mask = pattern

/-- A FRAME word with the row's `match` under its `mask`. -/
def FrameRow (p : PortWord) (mask pattern : FrameWord) : Prop :=
  ∃ f, p = .frame f ∧ f &&& mask = pattern

def Statement (i : Instr) : Prop :=
  i.wellFormed = true →
    match i with
    | .getStatus => CmdRow (encode i) 0xFFFFFFFF#32 0x10000000#32
    | .configure _ _ => CmdRow (encode i) 0xF3FF0000#32 0x20000000#32
    | .setThrottle _ => CmdRow (encode i) 0xFF000000#32 0x30000000#32
    | .arm => CmdRow (encode i) 0xFFFFFFFF#32 0x40000000#32
    | .disarm => CmdRow (encode i) 0xFFFFFFFF#32 0x50000000#32
    | .setDirection _ => CmdRow (encode i) 0xFFFFFF00#32 0x60000000#32
    | .brake => CmdRow (encode i) 0xFFFFFFFF#32 0x70000000#32
    | .tick => encode i = .strobe 0x1#2
    | .reset => encode i = .strobe 0x2#2
    | .frame _ => FrameRow (encode i) 0x0010#16 0x0000#16
    | .frameMotorStop => FrameRow (encode i) 0xFFFF#16 0x0000#16
    | .frameSpinDirectionNormal => FrameRow (encode i) 0xFFFF#16 0x028A#16
    | .frameCommand21 => FrameRow (encode i) 0xFFFF#16 0x02A8#16

theorem getStatus : Statement .getStatus := fun _ => ⟨_, rfl, by decide⟩

/-- The P, Q, proto8 and pin8 bits lie outside the row's mask. -/
theorem configure (pin : Option Int) (protocol : Option ProtocolArg) : Statement (.configure pin protocol) := by
  refine fun _ => ⟨_, rfl, ?_⟩
  ext k hk
  simp only [encodeConfigure, fieldAt]
  interval_cases k <;> simp

/-- The imm24 bits lie outside the row's mask. -/
theorem setThrottle (value : Int) : Statement (.setThrottle value) := by
  refine fun _ => ⟨_, rfl, ?_⟩
  ext k hk
  simp only [fieldAt]
  interval_cases k <;> simp

theorem arm : Statement .arm := fun _ => ⟨_, rfl, by decide⟩

theorem disarm : Statement .disarm := fun _ => ⟨_, rfl, by decide⟩

/-- The dir8 bits lie outside the row's mask. -/
theorem setDirection (dir : DirectionArg) : Statement (.setDirection dir) := by
  refine fun _ => ⟨_, rfl, ?_⟩
  ext k hk
  simp only [fieldAt]
  interval_cases k <;> simp

theorem brake : Statement .brake := fun _ => ⟨_, rfl, by decide⟩

theorem tick : Statement .tick := fun _ => rfl

theorem reset : Statement .reset := fun _ => rfl

/-- The telemetry bit is 0 in every frame. -/
theorem frame (value : Value) : Statement (.frame value) := by
  refine fun _ => ⟨_, rfl, ?_⟩
  ext k hk
  simp only [Machine.encodeFrame, Machine.packet]
  interval_cases k <;> simp

theorem frameMotorStop : Statement .frameMotorStop := fun _ => ⟨_, rfl, by decide⟩

theorem frameSpinDirectionNormal : Statement .frameSpinDirectionNormal := fun _ => ⟨_, rfl, by decide⟩

theorem frameCommand21 : Statement .frameCommand21 := fun _ => ⟨_, rfl, by decide⟩

end Sys2Proof.Laws.EncodesItsRow
end

