-- ==== Sys2Proof/Tests/Slice0.lean ====
section
/-!
SUPPORT. Tests/Slice0.lean: the model's own tests. Expected values come from spec/: the vectors V<n> and programs P<n> of
95_test_vectors.md, and words written out from the layouts of 30_encoding.md. After them, a witness for the hypotheses of
every statement that has some.
-/

namespace Sys2Proof.Tests

open Sys2Proof.Machine

/-! ### WellFormed: one ill-formed term for each check -/

theorem test_illFormed_pin_high : (Instr.configure (some 128) none).wellFormed = false := by decide
theorem test_illFormed_pin_low : (Instr.configure (some (-129)) none).wellFormed = false := by decide
theorem test_illFormed_protocol_low : (Instr.configure none (some (.unrecognized 3))).wellFormed = false := by decide
theorem test_illFormed_protocol_high : (Instr.configure none (some (.unrecognized 256))).wellFormed = false := by decide
theorem test_illFormed_value_high : (Instr.setThrottle 8388608).wellFormed = false := by decide
theorem test_illFormed_value_low : (Instr.setThrottle (-8388609)).wellFormed = false := by decide
theorem test_illFormed_direction_low : (Instr.setDirection (.unrecognized 2)).wellFormed = false := by decide
theorem test_illFormed_direction_high : (Instr.setDirection (.unrecognized 256)).wellFormed = false := by decide
theorem test_illFormed_frame_special : (Instr.frame 21#11).wellFormed = false := by decide

/-! ### Decode: every constructor, its word written out bit by bit -/

theorem test_decode_getStatus : decode (.cmd 0b00010000000000000000000000000000#32) = .ok .getStatus := by decide
/-- V62: `P = 1`, `Q = 1`, `proto8` unrecognized, `pin8` 7. -/
theorem test_decode_configure : decode (.cmd 0b00101100000000001111111100000111#32) =
    .ok (.configure (some 7) (some (.unrecognized 255))) := by decide
/-- V119: `P = 0`, so the `pin8` bits are ignored. -/
theorem test_decode_configure_ignores : decode (.cmd 0b00100100000000001111111101100011#32) =
    .ok (.configure none (some (.unrecognized 255))) := by decide
/-- V86: the most negative value. -/
theorem test_decode_setThrottle : decode (.cmd 0b00110000100000000000000000000000#32) = .ok (.setThrottle (-8388608)) := by
  decide
theorem test_decode_arm : decode (.cmd 0b01000000000000000000000000000000#32) = .ok .arm := by decide
theorem test_decode_disarm : decode (.cmd 0b01010000000000000000000000000000#32) = .ok .disarm := by decide
theorem test_decode_setDirection : decode (.cmd 0b01100000000000000000000000000010#32) =
    .ok (.setDirection (.known .brake)) := by decide
/-- V102. -/
theorem test_decode_setDirection_unknown : decode (.cmd 0b01100000000000000000000011111111#32) =
    .ok (.setDirection (.unrecognized 255)) := by decide
theorem test_decode_brake : decode (.cmd 0b01110000000000000000000000000000#32) = .ok .brake := by decide
theorem test_decode_tick : decode (.strobe 0b01#2) = .ok .tick := by decide
theorem test_decode_reset : decode (.strobe 0b10#2) = .ok .reset := by decide
/-- V15: 1500 is 0xBB88. -/
theorem test_decode_frame : decode (.frame 0b1011101110001000#16) = .ok (.frame 1500#11) := by decide
theorem test_decode_motorStop : decode (.frame 0b0000000000000000#16) = .ok .frameMotorStop := by decide
theorem test_decode_spinNormal : decode (.frame 0b0000001010001010#16) = .ok .frameSpinDirectionNormal := by decide
theorem test_decode_command21 : decode (.frame 0b0000001010101000#16) = .ok .frameCommand21 := by decide

/-- V111 to V117; the frame of 48 with a wrong checksum, and with the telemetry bit set. -/
theorem test_reject_reserved : decode (.cmd 0x80000000#32) = .error .reservedOpcode := by decide
theorem test_reject_zero : decode (.cmd 0x00000000#32) = .error .reservedOpcode := by decide
theorem test_reject_getStatus : decode (.cmd 0x10000001#32) = .error .mustBeZero := by decide
theorem test_reject_setThrottle : decode (.cmd 0x31000000#32) = .error .mustBeZero := by decide
theorem test_reject_configure : decode (.cmd 0x20010000#32) = .error .mustBeZero := by decide
theorem test_reject_checksum : decode (.frame 0x0607#16) = .error .badChecksum := by decide
theorem test_reject_telemetry : decode (.frame 0x0616#16) = .error .telemetrySet := by decide

/-- The table's numbering: strobes as one byte, frames as two, commands as four. -/
theorem test_table_tick : decodeTableWord 8 1 = some .tick := by decide
theorem test_table_strobe_extra : decodeTableWord 8 5 = none := by decide
theorem test_table_frame : decodeTableWord 16 0x028A = some .frameSpinDirectionNormal := by decide
theorem test_table_cmd : decodeTableWord 32 0x60000001 = some (.setDirection (.known .reverse)) := by decide

/-! ### The frame builder and the timing -/

/-- V14, V17: alternating bits of both phases. -/
theorem test_encode_1365 : encodeFrame 1365#11 = 0xAAAA#16 := by decide
theorem test_encode_682 : encodeFrame 682#11 = 0x5544#16 := by decide
/-- V21. -/
theorem test_timing_300 : timing .d300 = { period := 3333, t1h := 2499, t1l := 834, t0h := 1249, t0l := 2084 } := by decide

/-! ### Meanings -/

/-- The state after an outcome, if it is a next state. -/
def after : Host.Outcome State Fault Refusal → Option State
  | .next t => some t
  | .fault _ => none
  | .refused _ => none

/-- A state as the vectors write one, its pin an output at LOW. -/
def st (pin : Pin) (protocol : Protocol) (armed : Bool) (throttle : Value) (direction : Direction) : State :=
  { State.reset with
    esc := { pin := pin, protocol := protocol, armed := armed, throttle := throttle, direction := direction }
    shadow := [(pin, { mode := .output, level := .low })]
    wire := [.mode pin .output, .level pin .low] }

/-- What an instruction leaves of `S` and answers. -/
def result (i : Instr) (s : State) : Option (EscState × Option RspWord) :=
  (after (exec i s)).map (fun t => (t.esc, t.response))

/-- The events an instruction appends. -/
def appended (i : Instr) (s : State) : Option (List WireEvent) :=
  (after (exec i s)).map (fun t => t.wire.drop s.wire.length)

/-- V51. -/
theorem test_getStatus : result .getStatus (st 12 .dshot600 true 777 .reverse) =
    some ((st 12 .dshot600 true 777 .reverse).esc, some 0x03090BCC#32) := by decide
/-- V68. -/
theorem test_configure : result (.configure (some 18) (some (.known .dshot300))) (st 5 .pwm true 1700 .forward) =
    some ((st 18 .dshot300 true 48 .forward).esc, some 0x00300992#32) := by decide
theorem test_configure_events : appended (.configure (some 18) (some (.known .dshot300))) (st 5 .pwm true 1700 .forward) =
    some [.mode 5 .input, .mode 18 .output, .level 18 .low] := by decide
/-- V143: the save of the protocol lost, that of the direction kept. -/
theorem test_configure_saves : (after (exec (.configure none (some (.known .pwm)))
      { st 5 .dshot300 false 48 .reverse with
        nv := { pin := none, protocol := some (.str "DSHOT300"), direction := some (.str "REVERSE") }
        saveAnswers := [false, true] })).map (fun t => t.nv) =
    some { pin := none, protocol := some (.str "DSHOT300"), direction := some (.str "FORWARD") } := by decide
/-- V63. -/
theorem test_configure_invalid : result (.configure (some 99) (some (.known .dshot300))) (st 5 .pwm false 1000 .forward) =
    some ((st 5 .pwm false 1000 .forward).esc, some 0x43E80005#32) := by decide
/-- V76, V83. -/
theorem test_setThrottle_pwm : result (.setThrottle 0) (st 5 .pwm true 1500 .forward) =
    some ((st 5 .pwm true 1000 .forward).esc, some 0x03E80105#32) := by decide
theorem test_setThrottle_dshot : result (.setThrottle 2048) (st 5 .dshot300 true 48 .forward) =
    some ((st 5 .dshot300 true 2047 .forward).esc, some 0x07FF0985#32) := by decide
/-- V92. -/
theorem test_arm : result .arm (st 5 .dshot600 true 2047 .brake) =
    some ((st 5 .dshot600 true 48 .brake).esc, some 0x00300DC5#32) := by decide
/-- V96. -/
theorem test_disarm : result .disarm (st 17 .dshot600 false 48 .forward) =
    some ((st 17 .dshot600 false 0 .forward).esc, some 0x000008D1#32) := by decide
theorem test_disarm_events : appended .disarm (st 17 .dshot600 false 48 .forward) = some [.level 17 .low] := by decide
/-- V98, V104. -/
theorem test_setDirection : result (.setDirection (.known .reverse)) (st 5 .dshot300 false 48 .forward) =
    some ((st 5 .dshot300 false 48 .reverse).esc, some 0x00300A85#32) := by decide
theorem test_setDirection_priority : result (.setDirection (.unrecognized 3)) (st 5 .pwm true 1500 .forward) =
    some ((st 5 .pwm true 1500 .forward).esc, some 0x85DC0105#32) := by decide
/-- V106, V108. -/
theorem test_brake : result .brake (st 5 .dshot300 true 1500 .forward) =
    some ((st 5 .dshot300 true 0 .brake).esc, some 0x00000D85#32) := by decide
theorem test_brake_disarmed : result .brake (st 5 .dshot300 false 300 .reverse) =
    some ((st 5 .dshot300 false 300 .reverse).esc, some 0xC12C0A85#32) := by decide
/-- V32. -/
theorem test_tick_pwm : appended .tick (st 5 .pwm true 1500 .forward) =
    some [.level 5 .high, .wait 1500000, .level 5 .low, .wait 18500000] := by decide
/-- V30: the opening of the frame 0x0606 at DShot600, and its HIGH times, 5 zeros, 2 ones, 6 zeros, 2 ones, 1 zero. -/
theorem test_tick_dshot : (appended .tick (st 5 .dshot600 true 48 .forward)).map highTimes =
    some [625, 625, 625, 625, 625, 1250, 1250, 625, 625, 625, 625, 625, 625, 1250, 1250, 625] := by decide
/-- V124. -/
theorem test_reset : result .reset { st 5 .pwm true 1500 .forward with
      nv := { pin := some (.int 40), protocol := some (.str "DSHOT150"), direction := some (.str "BRAKE") } } =
    some ((st 5 .dshot150 false 48 .brake).esc, none) := by decide
/-- V125: the name is case-sensitive. -/
theorem test_reset_case : result .reset { st 5 .pwm false 1000 .forward with
      nv := { pin := some (.int 3), protocol := some (.str "dshot300"), direction := some (.str "REVERSE") } } =
    some ((st 3 .pwm false 1000 .forward).esc, none) := by decide
/-- V34: the frame of value 0 still pulses. -/
theorem test_frame_zero : highTimes (frameEvents 5 (timing .d150) 0x0000#16) = List.replicate 16 2500 := by decide
/-- V15: 1500 is 1011 1011 1000 1000; R213: and it is never sent disarmed. -/
theorem test_frame : (appended (.frame 1500#11) (st 5 .dshot300 true 1500 .forward)).map highTimes =
    some [2499, 1249, 2499, 2499, 2499, 1249, 2499, 2499, 2499, 1249, 1249, 1249, 2499, 1249, 1249, 1249] := by decide
theorem test_frame_disarmed : appended (.frame 1500#11) (st 5 .dshot300 false 1500 .forward) = some [] := by decide
/-- V106, V108: motor-stop goes out in a `brake` that succeeds, and only there. -/
theorem test_frameMotorStop : result .frameMotorStop (st 5 .dshot300 true 1500 .forward) =
    some ((st 5 .dshot300 true 0 .brake).esc, some 0x00000D85#32) := by decide
theorem test_frameMotorStop_disarmed : result .frameMotorStop (st 5 .dshot300 false 300 .reverse) =
    some ((st 5 .dshot300 false 300 .reverse).esc, none) := by decide
/-- R114, R196: command 20 goes with the label Forward, command 21 with Reverse. -/
theorem test_frameSpinDirectionNormal : (result .frameSpinDirectionNormal (st 5 .dshot300 false 48 .reverse)).map Prod.fst =
    some (st 5 .dshot300 false 48 .forward).esc := by decide
theorem test_frameCommand21 : (result .frameCommand21 (st 5 .dshot300 false 48 .forward)).map Prod.fst =
    some (st 5 .dshot300 false 48 .reverse).esc := by decide
/-- U17: a table that rounds 2499.75 and 1249.875 up is a table like any other; the frame of value 1 is 0x0022. -/
theorem test_given_table : highTimes (State.reset.sendDShot { parameters with timing := { parameters.timing with
      d300 := { period := 3333, t1h := 2500, t1l := 833, t0h := 1250, t0l := 2083 } } } 1#11 .d300).wire =
    List.replicate 10 1250 ++ [2500] ++ List.replicate 3 1250 ++ [2500, 1250] := by decide

/-- V42: a frame has 66 events, and ten sends have nine pauses between them. -/
theorem test_frame_length : (frameEvents 5 (timing .d600) 0x02A8#16).length = 66 := by decide
theorem test_burst_count : (repeatSends [WireEvent.critEnter] [.wait 1000000] false 10).length = 19 := by decide
/-- V43: with the trailing gap one pause more. -/
theorem test_burst_trailing : repeatSends [WireEvent.critEnter] [.wait 1000000] true 2 =
    [.critEnter, .wait 1000000, .critEnter, .wait 1000000] := by decide

/-! ### One step from reset -/

/-- P2, step 1: the host presents `getStatus` to the machine right after reset. -/
theorem test_step_getStatus : (after (step (State.reset.withFetchWord 32 0x10000000))).map (fun t => t.response) =
    some (some 0x03E80005#32) := by decide
/-- V113: a reserved word is answered. -/
theorem test_step_reserved : (after (step (State.reset.withFetchWord 32 0xFFFFFFFF))).map (fun t => (t.esc, t.response)) =
    some (State.reset.esc, some 0x43E80005#32) := by decide

/-! ### Witnesses: the hypotheses of each statement are met together -/

/-- A DShot state, armed, whose next three saves are told: kept, lost, kept. -/
def live : State := { st 5 .dshot300 true 1500 .reverse with saveAnswers := [true, false, true] }

/-- A PWM state, armed, at the lowest pulse width. -/
def pulsing : State := st 5 .pwm true 1000 .forward

/-- The state with one word presented. -/
def facing (s : State) (w : PortWord) : State := { s with inputs := [w] }

theorem witness_EncodeThenDecodeGivesTheInstruction :
    (Instr.configure (some (-128)) (some (.unrecognized 4))).wellFormed = true ∧
    (Instr.setThrottle (-8388608)).wellFormed = true ∧ (Instr.setDirection (.unrecognized 3)).wellFormed = true ∧
    (Instr.frame 2047#11).wellFormed = true := by decide

/-- Both clauses of DecodedWordIsReencoded, and DecodedInstructionIsWellFormed. -/
theorem witness_decoded : decode (.cmd 0x30800000#32) = .ok (.setThrottle (-8388608)) ∧
    decode (.cmd 0x200000FF#32) = .ok (.configure none none) := by decide

theorem witness_ReservedCommandWordIsAnswered :
    (0x0FFFFFFF#32).toNat / 2 ^ 28 = 0 ∧ 8 ≤ (0x80000000#32).toNat / 2 ^ 28 ∧
    ((0x20010000#32).toNat / 2 ^ 28 = 2 ∧ 0x20010000#32 &&& 0x03FF0000#32 ≠ 0#32) ∧
    ((0x31000000#32).toNat / 2 ^ 28 = 3 ∧ 0x31000000#32 &&& 0x0F000000#32 ≠ 0#32) ∧
    ((0x60000100#32).toNat / 2 ^ 28 = 6 ∧ 0x60000100#32 &&& 0x0FFFFF00#32 ≠ 0#32) ∧
    ((0x70000001#32).toNat / 2 ^ 28 ∈ [1, 4, 5, 7] ∧ 0x70000001#32 &&& 0x0FFFFFFF#32 ≠ 0#32) ∧
    (facing State.reset (.cmd 0x20010000#32)).inputs = .cmd 0x20010000#32 :: [] := by decide

/-- A frame word that no value encodes to: its telemetry bit is set. -/
theorem witness_WordsNeverPresentedStopByName :
    (facing State.reset (.frame 0x0010#16)).inputs = .frame 0x0010#16 :: [] ∧ ∀ v, encodeFrame v ≠ 0x0010#16 := by
  refine ⟨rfl, fun v h => ?_⟩
  have h4 : (encodeFrame v).getLsbD 4 = false := by simp [encodeFrame, packet]
  rw [h] at h4
  exact absurd h4 (by decide)

theorem witness_StepRunsThePresentedInstruction :
    (facing State.reset (.cmd 0x40000000#32)).inputs = .cmd 0x40000000#32 :: [] ∧
    decode (.cmd 0x40000000#32) = .ok .arm ∧ State.reset.inputs = [] ∧ decodeTableWord 32 0x40000000 = some .arm := by
  decide

/-- ResponseWordFields: an instruction that gives a response, and a rejected word that is presented. -/
theorem witness_ResponseWordFields : ∃ t, exec .getStatus live = .next t ∧ t.response = some 0x05DC0B85#32 ∧
    (facing live (.cmd 0#32)).inputs = .cmd 0#32 :: [] :=
  ⟨_, rfl, by decide, rfl⟩

/-- BurstLengthAndDuration, the last clauses of SetDirectionMeaning and BrakeMeaning, DshotTickSendsOneFrame. -/
theorem witness_dshot : live.shadow.wf = true ∧ gradeOf live.esc.protocol = some .d300 ∧ live.esc.armed = true ∧
    live.esc.throttle ≠ 0#11 := by decide

theorem witness_ConfigureRejectsInvalidOperands :
    (∃ v : Int, some (40 : Int) = some v ∧ (v < 0 ∨ 39 < v)) ∧ (∃ v : Int, some (-1 : Int) = some v ∧ (v < 0 ∨ 39 < v)) ∧
    ∃ code, some (ProtocolArg.unrecognized 4) = some (.unrecognized code) :=
  ⟨⟨40, rfl, by decide⟩, ⟨-1, rfl, by decide⟩, ⟨4, rfl⟩⟩

/-- ConfigureTouchesOnlyTheTwoPins and ConfigureSavesOnlyChangedFields: with the pin changed and not, at both ends. -/
theorem witness_configure_pins : live.shadow.wf = true ∧
    (after (exec (.configure (some 39) (some (.known .pwm))) live)).map (fun t => t.esc.pin) = some 39 ∧
    (after (exec (.configure (some 0) none) live)).map (fun t => t.esc.pin) = some 0 ∧
    (after (exec (.configure none (some (.known .dshot150))) live)).map (fun t => t.esc.pin) = some live.esc.pin := by
  decide

/-- ConfigureSavesInOrder, one field changed: V60, where the one answer is the protocol's, and it is used up. -/
theorem test_configure_one_save : (after (exec (.configure none (some (.known .dshot150)))
      { st 5 .pwm false 1000 .forward with saveAnswers := [true] })).map (fun t => (t.nv, t.saveAnswers)) =
    some ({ pin := none, protocol := some (.str "DSHOT150"), direction := none }, []) := by decide
/-- ConfigureSavesInOrder, all three changed: pin kept, protocol lost, direction kept. -/
theorem test_configure_three_saves : (after (exec (.configure (some 18) (some (.known .pwm))) live)).map
      (fun t => (t.nv, t.saveAnswers)) =
    some ({ pin := some (.int 18), protocol := none, direction := some (.str "FORWARD") }, []) := by decide

theorem witness_ConfigureWithCurrentSettingsDoesNothing : (some 5 : Option Int) = some (live.esc.pin.val : Int) ∧
    some (ProtocolArg.known .dshot300) = some (.known live.esc.protocol) := by decide

/-- Both conditional clauses of SetThrottleClamps. -/
theorem witness_SetThrottleClamps : (0x30FFFFF6#32).extractLsb' 24 8 = 0x30#8 ∧ live.esc.armed = true ∧ (0 : Int) < 1 ∧
    pulsing.esc.armed = true ∧ pulsing.esc.protocol = .pwm := by decide

theorem witness_DisarmIsIdempotentOnState : pulsing.shadow.wf = true := by decide

/-- The clauses of SetDirectionMeaning on a kept and on a lost save. -/
theorem witness_setDirection_saves : live.saveAnswers = true :: [false, true] ∧
    ({ live with saveAnswers := [false] } : State).saveAnswers = false :: [] := by decide

/-- The first clauses of SetDirectionMeaning and of BrakeMeaning. -/
theorem witness_errors : (0x600000FF#32).extractLsb' 8 24 = 0x600000#24 ∧ pulsing.esc.protocol = .pwm ∧ (st 5 .dshot300 false 48 .forward).esc.protocol ≠ .pwm ∧
    (st 5 .dshot300 false 48 .forward).esc.armed = false := by decide

/-- Both clauses of IdleTickSendsNothing; a state that meets the invariants and one of them. -/
theorem witness_IdleTickSendsNothing : State.reset.esc.armed = false ∧ (st 5 .dshot300 true 0 .brake).esc.throttle = 0#11 := by
  decide

theorem witness_idle_inv : (st 5 .dshot300 true 0 .brake).Inv :=
  { esc := { pwmThrottle := by decide, pwmForward := by decide, armedPwm := by decide }
    replay := by decide
    canonical := by decide
    pinLow := by decide }

/-- PwmTickSendsOnePulse, at both bounds. -/
theorem witness_PwmTickSendsOnePulse : pulsing.esc.armed = true ∧ pulsing.esc.protocol = .pwm ∧
    1000 ≤ pulsing.esc.throttle.toNat ∧ pulsing.esc.throttle.toNat ≤ 2000 ∧
    (st 5 .pwm true 2000 .forward).esc.throttle.toNat = 2000 := by decide

/-- The pin clauses of ResetRebuildsTheState: the lowest and highest pin, and a stored 40. -/
theorem witness_ResetRebuildsTheState :
    (∃ p : Pin, some (NvValue.int 0) = some (.int p.val)) ∧ (∃ p : Pin, some (NvValue.int 39) = some (.int p.val)) ∧
    ∀ p : Pin, some (NvValue.int 40) ≠ some (.int p.val) := by decide

theorem witness_ResetOfABlankDeviceIsStateReset :
    (st 7 .pwm true 1500 .forward).nv = { pin := none, protocol := none, direction := none } := by decide

/-- FrameRowsTransmit, every clause. -/
theorem witness_FrameRowsTransmit : gradeOf live.esc.protocol = some .d300 ∧ (1500#11 : Value) ≠ 0#11 ∧
    live.esc.throttle = 1500#11 ∧ live.esc.armed = true := by decide

/-- FrameRowsAreStepsOfTheHardware, every clause: sent, not sent for being disarmed, and not sent for PWM. -/
theorem witness_FrameRowsAreStepsOfTheHardware :
    (live.esc.armed = true ∧ live.esc.throttle = 1500#11 ∧ (1500#11 : Value) ≠ 0#11 ∧ live.esc.protocol ≠ .pwm) ∧
    (st 5 .dshot300 false 48 .forward).esc.armed = false ∧ pulsing.esc.protocol = .pwm := by decide

/-- TransmissionsHaveTwoSources: a step of each kind that answers. -/
theorem witness_TransmissionsHaveTwoSources : (∃ t, exec .arm live = .next t) ∧ (∃ t, exec (.frame 1500#11) live = .next t) ∧
    (∃ t, exec .tick pulsing = .next t) ∧ ∃ t, exec .frameMotorStop live = .next t :=
  ⟨⟨_, rfl⟩, ⟨_, rfl⟩, ⟨_, rfl⟩, ⟨_, rfl⟩⟩

/-- BurstFollowsItsPolicy, and the two clauses of ParametersReachOnlyTheWire: a step that answers, one that faults. -/
theorem witness_parameters : parameters.retry.repeats = 9 + 1 ∧ (∃ t, execWith parameters .tick live = .next t) ∧
    execWith parameters .tick (st 5 .pwm true 999 .forward) = .fault .pwmWidthOutOfRange :=
  ⟨rfl, ⟨_, rfl⟩, rfl⟩

/-- EveryCommandIsAnsweredWithItsCode: a CMD word is presented; and each code occurs. -/
theorem witness_EveryCommandIsAnsweredWithItsCode :
    (after (step (facing pulsing (.cmd 0x28000028#32)))).map (fun t => t.response.map rspCode) = some (some 1#2) ∧
    (after (step (facing pulsing (.cmd 0x70000000#32)))).map (fun t => t.response.map rspCode) = some (some 2#2) ∧
    (after (step (facing (st 5 .dshot300 false 300 .reverse) (.cmd 0x70000000#32)))).map
      (fun t => t.response.map rspCode) = some (some 3#2) := by decide

/-- AnErrorChangesNothingElse: a step that answers with an error. -/
theorem witness_AnErrorChangesNothingElse : ∃ t r, (facing pulsing (.cmd 0x70000000#32)).inputs = .cmd 0x70000000#32 :: [] ∧
    step (facing pulsing (.cmd 0x70000000#32)) = .next t ∧ t.response = some r ∧ rspCode r ≠ 0#2 :=
  ⟨_, _, rfl, rfl, rfl, by decide⟩

/-- ModeTransitions, NoRuleReadsTheTraceOrThePins, DirectionLabelIsNeverTransmitted: an instruction that answers. -/
theorem witness_exec_next : ∃ t, exec .tick pulsing = .next t := ⟨_, rfl⟩

/-- FieldsChangeOnlyUnderTheirWriters: an instruction that answers and changes armed, throttle and the wire. -/
theorem witness_FieldsChangeOnlyUnderTheirWriters : ∃ t, exec .disarm live = .next t ∧
    t.esc.armed ≠ live.esc.armed ∧ t.esc.throttle ≠ live.esc.throttle ∧ t.wire ≠ live.wire :=
  ⟨_, rfl, by decide, by decide, by decide⟩

/-- Its other clauses: a configure that changes pin, protocol, direction and the store. -/
theorem witness_FieldsChange_configure : ∃ t, exec (.configure (some 18) (some (.known .pwm))) live = .next t ∧
    t.esc.pin ≠ live.esc.pin ∧ t.esc.protocol ≠ live.esc.protocol ∧ t.esc.direction ≠ live.esc.direction ∧ t.nv ≠ live.nv :=
  ⟨_, rfl, by decide, by decide, by decide, by decide⟩

/-- AnyResetEstablishesTheInvariants. -/
theorem witness_AnyResetEstablishesTheInvariants : ∃ t, exec .reset live = .next t := ⟨_, rfl⟩

/-- EveryStepKeepsTheInvariants, InvariantStatesNeverStop: states that meet the invariants, armed under both kinds of
protocol. -/
theorem witness_live_inv : live.Inv :=
  { esc := { pwmThrottle := by decide, pwmForward := by decide, armedPwm := by decide }
    replay := by decide
    canonical := by decide
    pinLow := by decide }

theorem witness_pulsing_inv : (facing pulsing (.strobe 0b01#2)).Inv :=
  { esc := { pwmThrottle := by decide, pwmForward := by decide, armedPwm := by decide }
    replay := by decide
    canonical := by decide
    pinLow := by decide }

theorem witness_InvariantStatesNeverStop : (∃ t, step (facing pulsing (.strobe 0b01#2)) = .next t) ∧
    presentable (.strobe 0b01#2) = true ∧ presentable (.frame 0x0606#16) = true := ⟨⟨_, rfl⟩, by decide⟩

/-- EveryStepKeepsTheStoreUsable. -/
theorem witness_EveryStepKeepsTheStoreUsable :
    NvStore.Usable { pin := some (.int 39), protocol := some (.str "DSHOT600"), direction := some (.str "BRAKE") } :=
  { pin := .inr ⟨39, rfl⟩, protocol := .inr ⟨.dshot600, rfl⟩, direction := .inr ⟨.brake, rfl⟩ }

/-- TheTraceOnlyGrows: a step that is no reset and appends. -/
theorem witness_TheTraceOnlyGrows : (∃ t, step (facing pulsing (.strobe 0b01#2)) = .next t) ∧
    ∀ rest, (facing pulsing (.strobe 0b01#2)).inputs ≠ .strobe 0b10#2 :: rest :=
  ⟨⟨_, rfl⟩, by intro rest h; cases h⟩

/-- DisarmedPinRisesOnlyForADirection: a direction burst while disarmed, which does rise. -/
theorem witness_DisarmedPinRisesOnlyForADirection : ∃ t es,
    exec (.setDirection (.known .reverse)) (st 5 .dshot300 false 48 .forward) = .next t ∧
    t.wire = (st 5 .dshot300 false 48 .forward).wire ++ es ∧ WireEvent.level 5 .high ∈ es :=
  ⟨_, _, rfl, rfl, by decide⟩

/-- SaveIsKeptOrLost and KeptSettingsSurviveReset: both answers. -/
theorem witness_saves : ({ live with saveAnswers := [true, true, true] } : State).saveAnswers = true :: true :: true :: [] ∧
    ({ live with saveAnswers := [false, false, false] } : State).saveAnswers = false :: false :: false :: [] ∧
    (18 : Pin) ≠ live.esc.pin ∧ Protocol.dshot150 ≠ live.esc.protocol := by decide

theorem witness_ClampIsBoundedMonotoneIdempotent : (1000 : Int) ≤ 2000 ∧ (999 : Int) ≤ 1000 := by decide

end Sys2Proof.Tests
end

section
/-! ### Proofs of 40_protocol_timing.md: the timing table -/

namespace Sys2Proof.Machine

/-- The stored row of a grade is the floor rounding of its bit period (R133, D3). -/
theorem timing_eq_floorTiming (g : Grade) : timing g = floorTiming g := by
  cases g <;> rfl

/-- A ratio of at most 1 keeps the HIGH time within the bit, so the Nat subtraction that gives LOW never truncates. -/
theorem highTime_le_period {ratio : Nat × Nat} (h : ratio.1 ≤ ratio.2) (period : Nat) :
    highTime period ratio ≤ period :=
  Nat.div_le_of_le_mul (by rw [Nat.mul_comm]; exact Nat.mul_le_mul_right period h)

theorem floorTiming_one_lasts_period (g : Grade) : (floorTiming g).t1h + (floorTiming g).t1l = (floorTiming g).period :=
  Nat.add_sub_of_le (highTime_le_period (ratio := Config.highRatioOne) (by decide) _)

theorem floorTiming_zero_lasts_period (g : Grade) : (floorTiming g).t0h + (floorTiming g).t0l = (floorTiming g).period :=
  Nat.add_sub_of_le (highTime_le_period (ratio := Config.highRatioZero) (by decide) _)

/-- Every bit lasts exactly its period (R133). -/
theorem timing_one_lasts_period (g : Grade) : (timing g).t1h + (timing g).t1l = (timing g).period := by
  rw [timing_eq_floorTiming, floorTiming_one_lasts_period]

theorem timing_zero_lasts_period (g : Grade) : (timing g).t0h + (timing g).t0l = (timing g).period := by
  rw [timing_eq_floorTiming, floorTiming_zero_lasts_period]

/-- HIGH of a 1 is the floor of three quarters of the period (R132, R133). -/
theorem timing_t1h (g : Grade) : (timing g).t1h = (timing g).period * 3 / 4 := by
  rw [timing_eq_floorTiming]; rfl

/-- HIGH of a 0 is the floor of three eighths of the period (R132, R133). -/
theorem timing_t0h (g : Grade) : (timing g).t0h = (timing g).period * 3 / 8 := by
  rw [timing_eq_floorTiming]; rfl

/-- Settles O11: the three rows by evaluation, the formulas from the rounding that every row of the table is made by. -/
theorem timingTable : Obligations.TimingTable := by
  unfold Obligations.TimingTable
  refine ⟨by decide, by decide, by decide, fun g => ?_⟩
  exact ⟨timing_t1h g, timing_t0h g, timing_one_lasts_period g, timing_zero_lasts_period g⟩

end Sys2Proof.Machine
end

section
/-! ### Proofs of 41_frame_encoder.md: the checksum fold and the assembly of the frame -/

namespace Sys2Proof.Machine

/-- The packet has 12 bits: the nibble that the fold does not take is zero (R141). -/
theorem packet_top_nibble_zero (v : Value) : packet v >>> 12 = 0#16 := by
  ext k hk
  simp only [packet, BitVec.getElem_ushiftRight, BitVec.getLsbD_shiftLeft, BitVec.getLsbD_setWidth, BitVec.getElem_zero]
  rw [BitVec.getLsbD_of_ge v (12 + k - 1) (by omega)]
  simp

/-- Three rounds XOR in the three low nibbles of `data`, the first one before any shift (R142). -/
theorem crcRounds_three (data : BitVec 16) (csum : BitVec 4) :
    crcRounds 3 data csum =
      csum ^^^ data.setWidth 4 ^^^ (data >>> 4).setWidth 4 ^^^ (data >>> 8).setWidth 4 := by
  rw [BitVec.shiftRight_add data 4 4]
  rfl

/-- Reading the low nibble absorbs the mask `0xF`. -/
theorem setWidth_and_low_nibble (x : BitVec 16) : (x &&& 0xF#16).setWidth 4 = x.setWidth 4 := by
  rw [BitVec.setWidth_and]
  exact BitVec.and_allOnes

/-- The closed form of the checksum (R142). -/
theorem crc4_eq_packet_fold (v : Value) :
    crc4 v = ((packet v ^^^ packet v >>> 4 ^^^ packet v >>> 8) &&& 0xF#16).setWidth 4 := by
  rw [setWidth_and_low_nibble, BitVec.setWidth_xor, BitVec.setWidth_xor, crc4, crcRounds_three, BitVec.zero_xor]

/-- The frame carries the value five bits up: one for the telemetry bit, four for the checksum (R141, R143). -/
theorem encodeFrame_eq_value_or_crc (v : Value) :
    encodeFrame v = v.setWidth 16 <<< 5 ||| (crc4 v).setWidth 16 := by
  rw [encodeFrame, packet, ← BitVec.shiftLeft_add]

/-- The frame bit by bit: from bit 5 up the value, below bit 4 the checksum, and neither at bit 4. -/
theorem getLsbD_encodeFrame (v : Value) {k : Nat} (hk : k < 16) :
    (encodeFrame v).getLsbD k = if 5 ≤ k then v.getLsbD (k - 5) else (crc4 v).getLsbD k := by
  simp only [encodeFrame_eq_value_or_crc, BitVec.getLsbD_or, BitVec.getLsbD_shiftLeft, BitVec.getLsbD_setWidth]
  split
  case isTrue h =>
    rw [BitVec.getLsbD_of_ge (crc4 v) k (by omega)]
    simp [hk, h, show k - 5 < 16 by omega]
  case isFalse h => simp [hk, show k < 5 by omega]

@[simp] theorem frameValue_encodeFrame (v : Value) : frameValue (encodeFrame v) = v := by
  ext k hk
  rw [frameValue, BitVec.getElem_extractLsb', getLsbD_encodeFrame v (by omega), if_pos (by omega), Nat.add_sub_cancel_left,
    BitVec.getLsbD_eq_getElem]

@[simp] theorem frameTelem_encodeFrame (v : Value) : frameTelem (encodeFrame v) = false := by
  rw [frameTelem, getLsbD_encodeFrame v (by omega), if_neg (by omega), BitVec.getLsbD_of_ge _ _ (by omega)]

@[simp] theorem frameCrc_encodeFrame (v : Value) : frameCrc (encodeFrame v) = crc4 v := by
  ext k hk
  rw [frameCrc, BitVec.getElem_extractLsb', getLsbD_encodeFrame v (by omega), if_neg (by omega), Nat.zero_add,
    BitVec.getLsbD_eq_getElem]

/-- Settles O9: the fold from its three rounds, the assembly by adding the two shifts, the fields from the frame's bits. -/
theorem frameAssembly : Obligations.FrameAssembly := by
  unfold Obligations.FrameAssembly
  intro v
  exact ⟨packet_top_nibble_zero v, crc4_eq_packet_fold v, encodeFrame_eq_value_or_crc v, rfl,
    frameValue_encodeFrame v, frameTelem_encodeFrame v, frameCrc_encodeFrame v⟩

end Sys2Proof.Machine
end

section
/-! ### Proofs of 43_special_commands.md: the burst of a special command -/

namespace Sys2Proof.Machine

/-- Repeated sends in closed form: a gap after every send but the last, and after the last one if `trailing` (R171). -/
theorem repeatSends_succ (one gap : List WireEvent) (trailing : Bool) (n : Nat) :
    repeatSends one gap trailing (n + 1) =
      (List.replicate n (one ++ gap)).flatten ++ one ++ (if trailing then gap else []) := by
  induction n with
  | zero => simp [repeatSends]
  | succ n ih => simp only [repeatSends, ih, List.replicate_succ, List.flatten_cons, List.append_assoc]

/-- A burst under any policy that sends at least once (R171). -/
theorem burstEvents_eq_of_repeats {policy : Config.RetryPolicy} {n : Nat} (h : policy.repeats = n + 1)
    (p : Pin) (t : BitTiming) (f : FrameWord) :
    burstEvents policy p t f =
      (List.replicate n (frameEvents p t f ++ [.wait (policy.gapMs * 1000000)])).flatten ++ frameEvents p t f ++
        (if policy.trailingGap then [.wait (policy.gapMs * 1000000)] else []) := by
  rw [burstEvents, h, repeatSends_succ, Config.nsPerMs]

/-- The spec's own policy: nine sends followed by 1 ms, and a tenth followed by nothing (R171). -/
theorem burstEvents_retryPolicy (p : Pin) (t : BitTiming) (f : FrameWord) :
    burstEvents Config.retryPolicy p t f =
      (List.replicate 9 (frameEvents p t f ++ [.wait 1000000])).flatten ++ frameEvents p t f := by
  rw [burstEvents_eq_of_repeats (n := 9) rfl]
  exact List.append_nil _

theorem encodeFrame_motorStop : encodeFrame (Config.commandValue .motorStop) = 0x0000#16 := by decide
theorem encodeFrame_spinDirectionNormal :
    encodeFrame (Config.commandValue .spinDirectionNormal) = 0x028A#16 := by decide
theorem encodeFrame_command21 : encodeFrame (Config.commandValue .command21) = 0x02A8#16 := by decide

/-- A special command appends its burst, under the spec's own timing and policy, to the wire (R171). -/
theorem sendCommand_parameters_wire (s : State) (c : SpecialCommand) (g : Grade) :
    (s.sendCommand parameters c g).wire =
      s.wire ++ burstEvents Config.retryPolicy s.esc.pin (timing g) (encodeFrame (Config.commandValue c)) :=
  State.sendCommand_wire ..

/-- Settles O14: the burst's closed form at ten repeats, and the frame of each of the three commands. -/
theorem burstIsTenFramesAndNinePauses : Obligations.BurstIsTenFramesAndNinePauses := by
  unfold Obligations.BurstIsTenFramesAndNinePauses
  intro s c g
  rw [sendCommand_parameters_wire, burstEvents_retryPolicy]
  cases c with
  | motorStop => rw [encodeFrame_motorStop]
  | spinDirectionNormal => rw [encodeFrame_spinDirectionNormal]
  | command21 => rw [encodeFrame_command21]

end Sys2Proof.Machine
end

section
/-! ### Fields of a 32-bit word: the response word (30_encoding.md R107) and the command words of R105 -/

namespace Sys2Proof

/-- A field in place, bit by bit. -/
theorem getElem_fieldAt {n lo k : Nat} (v : BitVec n) (hk : k < 32) :
    (fieldAt lo v)[k] = (!decide (k < lo) && v.getLsbD (k - lo)) := by
  simp [fieldAt]

/-- A field reads back what was put there. -/
theorem extractLsb'_fieldAt_same {n lo : Nat} (v : BitVec n) (h : lo + n ≤ 32) : (fieldAt lo v).extractLsb' lo n = v := by
  ext k hk
  rw [BitVec.getElem_extractLsb', BitVec.getLsbD_eq_getElem (by omega), getElem_fieldAt]
  simp [hk]

/-- A field is zero outside its own bits. -/
theorem extractLsb'_fieldAt_other {n lo lo' n' : Nat} (v : BitVec n) (h32 : lo' + n' ≤ 32)
    (h : lo' + n' ≤ lo ∨ lo + n ≤ lo') : (fieldAt lo v).extractLsb' lo' n' = 0#n' := by
  ext k hk
  rw [BitVec.getElem_extractLsb', BitVec.getLsbD_eq_getElem (by omega), getElem_fieldAt, BitVec.getElem_zero]
  rcases h with below | above
  · simp [show lo' + k < lo by omega]
  · rw [BitVec.getLsbD_of_ge v _ (by omega), Bool.and_false]

/-- A part of a field's value is a field of the word. -/
theorem extractLsb'_of_field {w : CmdWord} {lo len k n : Nat} {v : BitVec len} (h : w.extractLsb' lo len = v)
    (hk : k + n ≤ len) : w.extractLsb' (lo + k) n = v.extractLsb' k n := by
  subst h
  ext j hj
  simp [show k + j < len by omega, Nat.add_assoc]

/-- The must-be-zero test of one field. -/
theorem bitsClear_field (w : CmdWord) {lo n : Nat} (h : w.extractLsb' lo n = 0#n) :
    bitsClear w (fieldAt lo (BitVec.allOnes n)) = true := by
  rw [bitsClear, beq_iff_eq]
  ext k hk
  rw [BitVec.getElem_and, getElem_fieldAt, BitVec.getElem_zero]
  by_cases inside : lo ≤ k ∧ k < lo + n
  · have hbit : (w.extractLsb' lo n).getLsbD (k - lo) = false := by rw [h, BitVec.getLsbD_zero]
    rw [BitVec.getLsbD_extractLsb', Nat.add_sub_of_le inside.1, decide_eq_true (by omega), Bool.true_and,
      BitVec.getLsbD_eq_getElem hk] at hbit
    rw [hbit, Bool.false_and]
  · by_cases hlo : k < lo
    · simp [hlo]
    · simp [show ¬ k - lo < n by omega]

/-! The must-be-zero fields of the two layouts with an operand here (R105). -/

theorem mustBeZero_setThrottle : fieldAt 24 (BitVec.allOnes 4) = 0x0F000000#32 := by decide
theorem mustBeZero_setDirection : fieldAt 8 (BitVec.allOnes 20) = 0x0FFFFF00#32 := by decide

/-- `0011 0000 imm24` is `setThrottle` of its signed field (R105). -/
theorem decode_setThrottle (w : CmdWord) (h : w.extractLsb' 24 8 = 0x30#8) :
    decode (.cmd w) = .ok (.setThrottle (w.extractLsb' 0 24).toInt) := by
  have hop : w.extractLsb' 28 4 = 0x3#4 := extractLsb'_of_field (k := 4) h (by decide)
  have hzero : w.extractLsb' 24 4 = 0#4 := extractLsb'_of_field (k := 0) h (by decide)
  have hclear : bitsClear w 0x0F000000#32 = true := mustBeZero_setThrottle ▸ bitsClear_field w hzero
  simp [decode, decodeCmd, hop, checked, hclear]

/-- `0110` over twenty zero bits is `setDirection` of the direction its low byte is the code of (R105). -/
theorem decode_setDirection (w : CmdWord) (h : w.extractLsb' 8 24 = 0x600000#24) :
    decode (.cmd w) = .ok (.setDirection (directionArgOfCode (w.extractLsb' 0 8))) := by
  have hop : w.extractLsb' 28 4 = 0x6#4 := extractLsb'_of_field (k := 20) h (by decide)
  have hzero : w.extractLsb' 8 20 = 0#20 := extractLsb'_of_field (k := 0) h (by decide)
  have hclear : bitsClear w 0x0FFFFF00#32 = true := mustBeZero_setDirection ▸ bitsClear_field w hzero
  simp [decode, decodeCmd, hop, checked, hclear]

namespace Machine

section ResponseFields
variable (c : ResultCode) (e : EscState)

@[simp] theorem rspCode_rspWord : rspCode (rspWord c e) = c.bits := by
  simp (disch := omega) [rspCode, rspWord, BitVec.extractLsb'_or, extractLsb'_fieldAt_same, extractLsb'_fieldAt_other]

@[simp] theorem rspThrottle_rspWord : rspThrottle (rspWord c e) = e.throttle := by
  simp (disch := omega) [rspThrottle, rspWord, BitVec.extractLsb'_or, extractLsb'_fieldAt_same, extractLsb'_fieldAt_other]

@[simp] theorem rspDirection_rspWord : rspDirection (rspWord c e) = e.direction.code := by
  simp (disch := omega) [rspDirection, rspWord, BitVec.extractLsb'_or, extractLsb'_fieldAt_same, extractLsb'_fieldAt_other]

@[simp] theorem rspProtocol_rspWord : rspProtocol (rspWord c e) = e.protocol.code := by
  simp (disch := omega) [rspProtocol, rspWord, BitVec.extractLsb'_or, extractLsb'_fieldAt_same, extractLsb'_fieldAt_other]

@[simp] theorem rspPin_rspWord : rspPin (rspWord c e) = BitVec.ofNat 6 e.pin.val := by
  simp (disch := omega) [rspPin, rspWord, BitVec.extractLsb'_or, extractLsb'_fieldAt_same, extractLsb'_fieldAt_other]

@[simp] theorem rspArmed_rspWord : rspArmed (rspWord c e) = e.armed := by
  simp [rspArmed, rspWord, getElem_fieldAt]

@[simp] theorem rspDirectionSupported_rspWord : rspDirectionSupported (rspWord c e) = e.directionSupported := by
  simp [rspDirectionSupported, rspWord, getElem_fieldAt]

/-- Six bits hold every pin. -/
theorem toNat_rspPin_rspWord : (rspPin (rspWord c e)).toNat = e.pin.val := by
  have hp := e.pin.isLt
  rw [rspPin_rspWord, BitVec.toNat_ofNat]
  omega

end ResponseFields

end Machine
end Sys2Proof
end

section
/-! ### Proofs of 44_esc_controller.md: status, throttle, arming, direction and brake -/

namespace Sys2Proof.Machine

/-- A response written and nothing else, as a record update of the state. -/
theorem respond_answers (s : State) (c : ResultCode) :
    ∃ r, (.next (s.respond c) : Host.Outcome State Fault Refusal) = .next { s with response := some r } ∧
      rspCode r = c.bits :=
  ⟨rspWord c s.esc, rfl, rspCode_rspWord c s.esc⟩

/-! #### getStatus, arm, disarm -/

theorem exec_getStatus (s : State) : exec .getStatus s = .next (s.respond .ok) := rfl

theorem exec_arm (s : State) :
    exec .arm s = .next (State.respond
      { s with esc := { s.esc with armed := true, throttle := idleThrottle s.esc.protocol } } .ok) := rfl

theorem exec_disarm (s : State) :
    exec .disarm s = .next ((State.gpioWrite
      { s with esc := { s.esc with armed := false, throttle := 0#11 } } s.esc.pin .low).respond .ok) := rfl

/-- The idle value per protocol (R181, R188). -/
theorem idleThrottle_eq (p : Protocol) : idleThrottle p = if p = .pwm then 1000#11 else 48#11 := by
  cases p <;> rfl

theorem EscState.directionSupported_eq (e : EscState) : e.directionSupported = decide (e.protocol ≠ .pwm) := by
  unfold EscState.directionSupported
  cases e.protocol <;> rfl

/-- The response word of the state after reset (R182). -/
theorem rspWord_reset : rspWord .ok State.reset.esc = 0x03E80005#32 := by decide

/-- Settles O18: the response is the snapshot of `S`, and each field of it reads back. -/
theorem statusQueryReturnsTheRecord : Obligations.StatusQueryReturnsTheRecord := by
  unfold Obligations.StatusQueryReturnsTheRecord
  refine ⟨by decide, fun s => ⟨rspWord .ok s.esc, exec_getStatus s, ?_⟩, ?_⟩
  · refine ⟨rspCode_rspWord _ _, toNat_rspPin_rspWord _ _, rspProtocol_rspWord _ _, rspArmed_rspWord _ _,
      rspThrottle_rspWord _ _, rspDirection_rspWord _ _, ?_⟩
    rw [rspDirectionSupported_rspWord, EscState.directionSupported_eq]
  · rw [exec_getStatus, State.respond, rspWord_reset]

/-- Settles O27: `arm` stores the idle value of the protocol and answers. -/
theorem armEntersArmedAtIdle : Obligations.ArmEntersArmedAtIdle := by
  unfold Obligations.ArmEntersArmedAtIdle
  refine ⟨by decide, fun s => ?_⟩
  rw [exec_arm, idleThrottle_eq]
  exact respond_answers _ .ok

/-- Settles O28: the one write of the pin, with its update of the pin space, comes before the answer of the same step. -/
theorem disarmIsImmediate : Obligations.DisarmIsImmediate := by
  unfold Obligations.DisarmIsImmediate
  refine ⟨by decide, fun s => ?_⟩
  rw [exec_disarm]
  exact respond_answers _ .ok

/-! #### setThrottle -/

theorem exec_setThrottle (v : Int) (s : State) :
    exec (.setThrottle v) s = .next (State.respond
      { s with esc := { s.esc with throttle := clampThrottle s.esc.protocol v } } .ok) := rfl

/-- The active range per protocol (R181). -/
theorem throttleRange_eq (p : Protocol) : throttleRange p = if p = .pwm then (1000, 2000) else (0, 2047) := by
  cases p <;> rfl

/-- An integer clamped to a range of 11-bit numbers is what the 11 bits hold. -/
theorem toNat_ofInt_clamp {lo hi : Int} (v : Int) (h0 : 0 ≤ lo) (h : lo ≤ hi) (h11 : hi < 2048) :
    ((BitVec.ofInt 11 (clamp v lo hi)).toNat : Int) = clamp v lo hi := by
  obtain ⟨hlo, hhi⟩ := clamp_mem v lo hi h
  rw [BitVec.toNat_ofInt]
  omega

/-- What `setThrottle` stores, as a number: the operand clamped to the active range (R186). -/
theorem toNat_clampThrottle (p : Protocol) (v : Int) :
    ((clampThrottle p v).toNat : Int) = if p = .pwm then clamp v 1000 2000 else clamp v 0 2047 := by
  rw [clampThrottle, throttleRange_eq]
  split
  · exact toNat_ofInt_clamp v (by decide) (by decide) (by decide)
  · exact toNat_ofInt_clamp v (by decide) (by decide) (by decide)

theorem toNat_clampThrottle_pwm (v : Int) :
    1000 ≤ (clampThrottle .pwm v).toNat ∧ (clampThrottle .pwm v).toNat ≤ 2000 := by
  have hv := toNat_clampThrottle .pwm v
  rw [if_pos rfl] at hv
  have hmem := clamp_mem v 1000 2000 (by decide)
  omega

/-- Only a value of 0 or below under DShot is stored as 0. -/
theorem clampThrottle_ne_zero {p : Protocol} {v : Int} (h : 0 < v ∨ p = .pwm) : clampThrottle p v ≠ 0#11 := by
  intro hzero
  have hv := toNat_clampThrottle p v
  rw [hzero, BitVec.toNat_ofNat, Nat.zero_mod, Nat.cast_zero] at hv
  by_cases hp : p = .pwm
  · rw [if_pos hp] at hv
    have hmem := clamp_mem v 1000 2000 (by decide)
    omega
  · rw [if_neg hp, clamp] at hv
    have hpos := h.resolve_right hp
    split_ifs at hv <;> omega

/-- What a transmitting tick of `e` appends: one frame of the throttle, or one pulse of its width (R210). -/
def EscState.tickEvents (e : EscState) : List WireEvent :=
  match gradeOf e.protocol with
  | some g => frameEvents e.pin (timing g) (encodeFrame e.throttle)
  | none => [.level e.pin .high, .wait (e.throttle.toNat * 1000), .level e.pin .low,
      .wait ((20000 - e.throttle.toNat) * 1000)]

theorem exec_tick_eq (s : State) : exec .tick s = tickWith parameters s := rfl

/-- The tick of an armed state with a nonzero throttle, a pulse width under PWM. -/
theorem exec_tick_sends (s : State) (ha : s.esc.armed = true) (h0 : s.esc.throttle ≠ 0#11)
    (hw : s.esc.protocol = .pwm → 1000 ≤ s.esc.throttle.toNat ∧ s.esc.throttle.toNat ≤ 2000) :
    ∃ u, exec .tick s = .next u ∧ u.wire = s.wire ++ s.esc.tickEvents := by
  rw [exec_tick_eq]
  rcases tickWith_cases parameters s with ⟨idle, -⟩ | ⟨-, -, ⟨g, hg, ht⟩ | ⟨hp, ⟨w, hval, ht⟩ | ⟨outside, -⟩⟩⟩
  · rcases idle with disarmed | zero
    · rw [ha] at disarmed; cases disarmed
    · exact absurd zero h0
  · refine ⟨_, ht, ?_⟩
    rw [State.silent_wire, State.sendDShot_wire, EscState.tickEvents, hg]
    rfl
  · refine ⟨_, ht, ?_⟩
    rw [State.silent_wire, State.sendPwm_wire, EscState.tickEvents, (gradeOf_eq_none _).2 hp, ← hval]
    rfl
  · have := hw hp
    omega

/-- Settles O25: the word, the clamp, and the next tick of a throttle that is in range and not 0. -/
theorem setThrottleClamps : Obligations.SetThrottleClamps := by
  unfold Obligations.SetThrottleClamps
  refine ⟨decode_setThrottle, fun v s => ?_, fun v s ha hv => ?_⟩
  · exact ⟨clampThrottle s.esc.protocol v, rspWord .ok _, exec_setThrottle v s, rspCode_rspWord _ _,
      toNat_clampThrottle _ _⟩
  · obtain ⟨u, hu, hwire⟩ := exec_tick_sends
      (State.respond { s with esc := { s.esc with throttle := clampThrottle s.esc.protocol v } } .ok) ha
      (clampThrottle_ne_zero hv)
      (fun (hp : s.esc.protocol = .pwm) => by simpa [hp] using toNat_clampThrottle_pwm v)
    exact ⟨_, u, exec_setThrottle v s, hu, hwire⟩

/-! #### setDirection -/

theorem ne_pwm_of_gradeOf {p : Protocol} {g : Grade} (h : gradeOf p = some g) : p ≠ .pwm := by
  rintro rfl
  cases h

/-- The burst of a frame that the spec's own policy and timing give (R171). -/
def specBurst (p : Pin) (g : Grade) (f : FrameWord) : List WireEvent :=
  (List.replicate 9 (frameEvents p (timing g) f ++ [.wait 1000000])).flatten ++ frameEvents p (timing g) f

/-- The burst a command sends under the model's parameters. -/
theorem burstEvents_parameters (p : Pin) (g : Grade) (f : FrameWord) :
    burstEvents parameters.retry p (parameters.timing.row g) f = specBurst p g f :=
  burstEvents_retryPolicy p (timing g) f

theorem endsLow_specBurst (p : Pin) (g : Grade) (f : FrameWord) : EndsLow p (specBurst p g f) :=
  burstEvents_parameters p g f ▸ endsLow_burst p _ f

/-- What `setDirection(d)` sends (R196). -/
def directionBurst (p : Pin) (g : Grade) (d : Direction) : List WireEvent :=
  match directionCommand d with
  | none => []
  | some cmd => specBurst p g (encodeFrame (Config.commandValue cmd))

theorem directionBurst_forward (p : Pin) (g : Grade) : directionBurst p g .forward = specBurst p g 0x028A#16 :=
  congrArg (specBurst p g) encodeFrame_spinDirectionNormal

theorem directionBurst_reverse (p : Pin) (g : Grade) : directionBurst p g .reverse = specBurst p g 0x02A8#16 :=
  congrArg (specBurst p g) encodeFrame_command21

/-- A direction burst touches no other pin. -/
theorem read_directionBurst_other {p q : Pin} (g : Grade) (d : Direction) {space : PinSpace} (h : space.wf = true)
    (hq : q ≠ p) : ((directionBurst p g d).foldl PinSpace.record space).read q = space.read q := by
  unfold directionBurst
  cases directionCommand d with
  | none => rfl
  | some cmd => exact (endsLow_specBurst p g _ space h).2 q hq

/-- What a save leaves in the store when the store's answer is given (R69). -/
theorem State.nvSave_nv_of_answer {s : State} {b : Bool} {rest : List Bool} (h : s.saveAnswers = b :: rest) {k : NvKey}
    {v : NvValue} : (s.nvSave k v).nv = if b then s.nv.keep k v else s.nv := by
  rw [State.nvSave_nv, State.nextSaveKept_of_answer s b rest h]

/-- The state with the direction labelled and its save made, before the burst (R196). -/
def State.saveDirection (s : State) (d : Direction) : State :=
  State.nvSave { s with esc := { s.esc with direction := d } } .direction (.str (directionName d))

section SaveDirection
variable (s : State) (d : Direction)

@[simp] theorem State.saveDirection_esc : (s.saveDirection d).esc = { s.esc with direction := d } := State.nvSave_esc _ _ _
@[simp] theorem State.saveDirection_wire : (s.saveDirection d).wire = s.wire := State.nvSave_wire _ _ _
@[simp] theorem State.saveDirection_shadow : (s.saveDirection d).shadow = s.shadow := State.nvSave_shadow _ _ _
@[simp] theorem State.saveDirection_inputs : (s.saveDirection d).inputs = s.inputs := State.nvSave_inputs _ _ _
@[simp] theorem State.saveDirection_saveAnswers : (s.saveDirection d).saveAnswers = s.saveAnswers.tail :=
  State.nvSave_saveAnswers _ _ _

/-- The other keys of the store are as they were (R68). -/
theorem State.saveDirection_load_other {k : NvKey} (h : k ≠ .direction) : (s.saveDirection d).nv.load k = s.nv.load k := by
  rw [State.saveDirection, State.nvSave_load, if_neg (fun hk => h hk.1)]

/-- The save is kept or lost (R69). -/
theorem State.saveDirection_load_direction :
    (s.saveDirection d).nv.load .direction = s.nv.load .direction ∨
      (s.saveDirection d).nv.load .direction = some (.str (directionName d)) := by
  rw [State.saveDirection, State.nvSave_load]
  split
  · exact .inr rfl
  · exact .inl rfl

theorem State.saveDirection_load_direction_of_kept {rest : List Bool} (h : s.saveAnswers = true :: rest) :
    (s.saveDirection d).nv.load .direction = some (.str (directionName d)) := by
  have kept : (s.saveDirection d).nv = s.nv.keep .direction (.str (directionName d)) := State.nvSave_nv_of_answer h
  rw [kept, NvStore.load_keep_same]

theorem State.saveDirection_nv_of_lost {rest : List Bool} (h : s.saveAnswers = false :: rest) :
    (s.saveDirection d).nv = s.nv :=
  State.nvSave_nv_of_answer h

end SaveDirection

theorem exec_setDirection_eq (dir : DirectionArg) (s : State) :
    exec (.setDirection dir) s = setDirectionWith parameters dir s := rfl

theorem exec_setDirection_pwm (dir : DirectionArg) (s : State) (hp : s.esc.protocol = .pwm) :
    exec (.setDirection dir) s = .next (s.respond .capabilityError) := by
  rcases setDirectionWith_cases parameters dir s with ⟨-, ht⟩ | ⟨dshot, -⟩ | ⟨g, d, es, hg, -⟩
  · exact ht
  · exact absurd hp dshot
  · exact absurd hp (ne_pwm_of_gradeOf hg)

theorem exec_setDirection_unrecognized (code : Nat) (s : State) (hp : s.esc.protocol ≠ .pwm) :
    exec (.setDirection (.unrecognized code)) s = .next (s.respond .validationError) := by
  rcases setDirectionWith_cases parameters (.unrecognized code) s with ⟨pwm, -⟩ | ⟨-, -, ht⟩ | ⟨g, d, es, -, known, -⟩
  · exact absurd pwm hp
  · exact ht
  · cases known

/-- The `setDirection` that succeeds, armed or not: label, save, burst, answer (R196). -/
theorem exec_setDirection_known (d : Direction) (s : State) {g : Grade} (hg : gradeOf s.esc.protocol = some g) :
    exec (.setDirection (.known d)) s = .next (((s.saveDirection d).emit (directionBurst s.esc.pin g d)).respond .ok) := by
  rw [exec_setDirection_eq]
  rcases setDirectionWith_cases parameters (.known d) s with ⟨pwm, -⟩ | ⟨-, ⟨code, unknown⟩, -⟩ |
    ⟨g', d', es, hg', known, hes, ht⟩
  · exact absurd pwm (ne_pwm_of_gradeOf hg)
  · cases unknown
  · obtain rfl : g' = g := Option.some.inj (hg'.symm.trans hg)
    cases known
    have hburst : es = directionBurst s.esc.pin g' d := by
      rw [hes, directionBurst]
      cases directionCommand d with
      | none => rfl
      | some cmd => exact burstEvents_parameters ..
    rw [ht, hburst]
    rfl

/-- Settles O30: the decoder's field, the two errors in the order of R196, and label, one save and burst otherwise. -/
theorem setDirectionMeaning : Obligations.SetDirectionMeaning := by
  unfold Obligations.SetDirectionMeaning
  refine ⟨decode_setDirection, fun dir s hp => ?_, fun code s hp => ?_, fun d s g hg => ?_⟩
  · rw [exec_setDirection_pwm dir s hp]
    exact respond_answers s .capabilityError
  · rw [exec_setDirection_unrecognized code s hp]
    exact respond_answers s .validationError
  · refine ⟨_, exec_setDirection_known d s hg, s.saveDirection_esc d, ?wire, s.saveDirection_saveAnswers d,
      s.saveDirection_load_other d (by decide), s.saveDirection_load_other d (by decide), s.saveDirection_load_direction d,
      fun _ => s.saveDirection_load_direction_of_kept d, fun _ => s.saveDirection_nv_of_lost d, ?pins,
      s.saveDirection_inputs d, _, rfl, rspCode_rspWord _ _⟩
    case wire =>
      rw [State.respond_wire, State.emit_wire, State.saveDirection_wire]
      cases d with
      | forward => rw [directionBurst_forward]; rfl
      | reverse => rw [directionBurst_reverse]; rfl
      | brake => rfl
    case pins =>
      intro hwf q hq
      rw [State.respond_shadow, State.emit_shadow, State.saveDirection_shadow]
      exact read_directionBurst_other g d hwf hq

/-! #### brake -/

theorem exec_brake_eq (s : State) : exec .brake s = brakeWith parameters s := rfl

theorem exec_brake_pwm (s : State) (hp : s.esc.protocol = .pwm) :
    exec .brake s = .next (s.respond .capabilityError) := by
  rcases brakeWith_cases parameters s with ⟨-, ht⟩ | ⟨dshot, -⟩ | ⟨g, hg, -⟩
  · exact ht
  · exact absurd hp dshot
  · exact absurd hp (ne_pwm_of_gradeOf hg)

theorem exec_brake_disarmed (s : State) (hp : s.esc.protocol ≠ .pwm) (ha : s.esc.armed = false) :
    exec .brake s = .next (s.respond .notArmedError) := by
  rcases brakeWith_cases parameters s with ⟨pwm, -⟩ | ⟨-, -, ht⟩ | ⟨g, -, armed, -⟩
  · exact absurd pwm hp
  · exact ht
  · rw [ha] at armed; cases armed

/-- The state that a `brake` that succeeds sends its burst from. -/
def State.braked (s : State) : State :=
  { s with esc := { s.esc with direction := .brake, throttle := 0#11 } }

/-- Events sent from the braked state and the answer, as a record update. -/
theorem State.braked_emit_respond (s : State) (es : List WireEvent) (c : ResultCode) :
    (s.braked.emit es).respond c = { s with
      esc := { s.esc with direction := .brake, throttle := 0#11 }
      wire := s.wire ++ es
      shadow := es.foldl PinSpace.record s.shadow
      response := some (rspWord c s.braked.esc) } := rfl

/-- The `brake` that succeeds: direction, throttle, burst, answer; no save (R198). -/
theorem exec_brake_armed (s : State) {g : Grade} (hg : gradeOf s.esc.protocol = some g) (ha : s.esc.armed = true) :
    exec .brake s = .next ((s.braked.emit (specBurst s.esc.pin g 0x0000#16)).respond .ok) := by
  rw [exec_brake_eq]
  rcases brakeWith_cases parameters s with ⟨pwm, -⟩ | ⟨-, disarmed, -⟩ | ⟨g', hg', -, ht⟩
  · exact absurd pwm (ne_pwm_of_gradeOf hg)
  · rw [ha] at disarmed; cases disarmed
  · obtain rfl : g' = g := Option.some.inj (hg'.symm.trans hg)
    rw [ht, State.sendCommand, burstEvents_parameters, encodeFrame_motorStop]
    rfl

/-- Settles O31: the two errors in the order of R198, else the labelled state with motor-stop's burst. -/
theorem brakeMeaning : Obligations.BrakeMeaning := by
  unfold Obligations.BrakeMeaning
  refine ⟨by decide, fun s hp => ?_, fun s hp ha => ?_, fun s g hg ha => ?_⟩
  · rw [exec_brake_pwm s hp]
    exact respond_answers s .capabilityError
  · rw [exec_brake_disarmed s hp ha]
    exact respond_answers s .notArmedError
  · rw [exec_brake_armed s hg ha, State.braked_emit_respond, ← specBurst]
    exact ⟨_, _, rfl, rspCode_rspWord _ _, fun hwf => (endsLow_specBurst s.esc.pin g _ s.shadow hwf).2⟩

end Sys2Proof.Machine
end

section
/-! ### Proofs of 60_exceptions.md: the result code of every command word -/

namespace Sys2Proof

/-- The seven host operations, the only instructions a CMD word is decoded to (30_encoding.md R103). -/
def Instr.isCommand : Instr → Bool
  | .getStatus => true
  | .configure _ _ => true
  | .setThrottle _ => true
  | .arm => true
  | .disarm => true
  | .setDirection _ => true
  | .brake => true
  | .tick => false
  | .reset => false
  | .frame _ => false
  | .frameMotorStop => false
  | .frameSpinDirectionNormal => false
  | .frameCommand21 => false

/-- The opcode map of R103: a reserved opcode, or the layout of one host operation. -/
theorem decodeCmd_cases (w : CmdWord) :
    decodeCmd w = .error .reservedOpcode ∨ ∃ mask i, i.isCommand = true ∧ decodeCmd w = checked w mask i := by
  unfold decodeCmd
  dsimp only
  split_ifs
  case neg => exact .inl rfl
  all_goals exact .inr ⟨_, _, rfl, rfl⟩

/-- A CMD word is a host operation, or it is rejected for one of the two reasons of R106. -/
theorem decode_cmd_cases (w : CmdWord) :
    (∃ i, decode (.cmd w) = .ok i ∧ i.isCommand = true) ∨
      ∃ r, decode (.cmd w) = .error r ∧ (r = .reservedOpcode ∨ r = .mustBeZero) := by
  rcases decodeCmd_cases w with reserved | ⟨mask, i, hi, hw⟩
  · exact .inr ⟨_, reserved, .inl rfl⟩
  · rw [decode, hw, checked]
    split
    · exact .inl ⟨i, rfl, hi⟩
    · exact .inr ⟨_, rfl, .inr rfl⟩

namespace Machine

/-- The code a host operation answers with in `e`, its tests in the order of R183, R196 and R198; an instruction without
tests has the code OK. -/
def commandCode (i : Instr) (e : EscState) : ResultCode :=
  match i with
  | .configure pin protocol =>
    if (validatePin pin).isOk && (validateProtocol protocol).isOk then .ok else .validationError
  | .setDirection (.known _) => if e.protocol = .pwm then .capabilityError else .ok
  | .setDirection (.unrecognized _) => if e.protocol = .pwm then .capabilityError else .validationError
  | .brake => if e.protocol = .pwm then .capabilityError else if e.armed then .ok else .notArmedError
  | _ => .ok

/-- The code a CMD word is answered with in `e`: a rejected word's is ValidationError (30_encoding.md R106). -/
def cmdWordCode (w : CmdWord) (e : EscState) : ResultCode :=
  match decode (.cmd w) with
  | .error _ => .validationError
  | .ok i => commandCode i e

/-! #### The causes of each code -/

theorem isOk_eq_false_iff {ε α : Type} (x : Except ε α) : x.isOk = false ↔ ∃ c, x = .error c := by
  cases x <;> simp [Except.isOk, Except.toBool]

theorem commandCode_configure_eq_ok_or (pin : Option Int) (protocol : Option ProtocolArg) (e : EscState) :
    commandCode (.configure pin protocol) e = .ok ∨ commandCode (.configure pin protocol) e = .validationError := by
  rw [commandCode]
  split
  · exact .inl rfl
  · exact .inr rfl

/-- `configure` is turned away exactly for an invalid operand, in either mode (R183). -/
theorem commandCode_configure_eq_validationError (pin : Option Int) (protocol : Option ProtocolArg) (e : EscState) :
    commandCode (.configure pin protocol) e = .validationError ↔
      (∃ v, pin = some v ∧ (v < 0 ∨ 39 < v)) ∨ ∃ code, protocol = some (.unrecognized code) := by
  have hcode : commandCode (.configure pin protocol) e = .validationError ↔
      (validatePin pin).isOk = false ∨ (validateProtocol protocol).isOk = false := by
    rw [commandCode, ← Bool.and_eq_false_iff]
    split <;> simp_all
  rw [hcode]
  simp only [isOk_eq_false_iff, validatePin_error, validateProtocol_error, exists_eq_left]

/-- ValidationError, for a word that decodes (R222). -/
theorem commandCode_eq_validationError (i : Instr) (e : EscState) :
    commandCode i e = .validationError ↔
      (∃ v protocol, i = .configure (some v) protocol ∧ (v < 0 ∨ 39 < v)) ∨
      (∃ pin code, i = .configure pin (some (.unrecognized code))) ∨
      (∃ code, i = .setDirection (.unrecognized code) ∧ e.protocol ≠ .pwm) := by
  cases i with
  | configure pin protocol =>
    rw [commandCode_configure_eq_validationError]
    simp
  | setDirection dir =>
    cases dir with
    | known d => simp only [commandCode]; split_ifs <;> simp
    | unrecognized code => simp [commandCode]
  | brake => simp only [commandCode]; split_ifs <;> simp
  | _ => simp [commandCode]

/-- CapabilityError (R223). -/
theorem commandCode_eq_capabilityError (i : Instr) (e : EscState) :
    commandCode i e = .capabilityError ↔ e.protocol = .pwm ∧ ((∃ dir, i = .setDirection dir) ∨ i = .brake) := by
  cases i with
  | configure pin protocol => rcases commandCode_configure_eq_ok_or pin protocol e with h | h <;> simp [h]
  | setDirection dir => cases dir <;> simp [commandCode]
  | brake => simp only [commandCode]; split_ifs <;> simp_all
  | _ => simp [commandCode]

/-- NotArmedError (R224). -/
theorem commandCode_eq_notArmedError (i : Instr) (e : EscState) :
    commandCode i e = .notArmedError ↔ i = .brake ∧ e.protocol ≠ .pwm ∧ e.armed = false := by
  cases i with
  | configure pin protocol => rcases commandCode_configure_eq_ok_or pin protocol e with h | h <;> simp [h]
  | setDirection dir => cases dir <;> simp only [commandCode] <;> split_ifs <;> simp
  | brake => simp only [commandCode]; split_ifs <;> simp_all
  | _ => simp [commandCode]

/-! #### The answer -/

theorem exec_configure_answers (pin : Option Int) (protocol : Option ProtocolArg) (s : State) :
    ∃ t, exec (.configure pin protocol) s = .next t ∧
      t.response = some (rspWord (commandCode (.configure pin protocol) s.esc) t.esc) := by
  rcases execConfigure_cases pin protocol s with ⟨ht, invalid⟩ | ⟨np, nq, rfl, rfl, ht⟩
  · rw [(commandCode_configure_eq_validationError pin protocol s.esc).2 invalid]
    exact ⟨_, ht, rfl⟩
  · refine ⟨_, ht, ?_⟩
    rw [commandCode, (validatePin_ok _ np).2 rfl, (validateProtocol_ok _ nq).2 rfl]
    rfl

theorem exec_setDirection_answers (dir : DirectionArg) (s : State) :
    ∃ t, exec (.setDirection dir) s = .next t ∧
      t.response = some (rspWord (commandCode (.setDirection dir) s.esc) t.esc) := by
  rcases setDirectionWith_cases parameters dir s with ⟨hp, ht⟩ | ⟨hp, ⟨code, rfl⟩, ht⟩ | ⟨g, d, es, hg, rfl, -, ht⟩
  · rw [(commandCode_eq_capabilityError _ _).2 ⟨hp, .inl ⟨dir, rfl⟩⟩]
    exact ⟨_, ht, rfl⟩
  · rw [commandCode, if_neg hp]
    exact ⟨_, ht, rfl⟩
  · rw [commandCode, if_neg (ne_pwm_of_gradeOf hg)]
    exact ⟨_, ht, rfl⟩

theorem exec_brake_answers (s : State) :
    ∃ t, exec .brake s = .next t ∧ t.response = some (rspWord (commandCode .brake s.esc) t.esc) := by
  rcases brakeWith_cases parameters s with ⟨hp, ht⟩ | ⟨hp, ha, ht⟩ | ⟨g, hg, ha, ht⟩
  · rw [(commandCode_eq_capabilityError _ _).2 ⟨hp, .inr rfl⟩]
    exact ⟨_, ht, rfl⟩
  · rw [(commandCode_eq_notArmedError _ _).2 ⟨rfl, hp, ha⟩]
    exact ⟨_, ht, rfl⟩
  · rw [commandCode, if_neg (ne_pwm_of_gradeOf hg), if_pos ha]
    exact ⟨_, ht, rfl⟩

/-- Every host operation answers, with its code and a snapshot of the state it leaves. -/
theorem exec_command_answers {i : Instr} (hi : i.isCommand = true) (s : State) :
    ∃ t, exec i s = .next t ∧ t.response = some (rspWord (commandCode i s.esc) t.esc) := by
  cases i with
  | getStatus => exact ⟨_, exec_getStatus s, rfl⟩
  | configure pin protocol => exact exec_configure_answers pin protocol s
  | setThrottle value => exact ⟨_, exec_setThrottle value s, rfl⟩
  | arm => exact ⟨_, exec_arm s, rfl⟩
  | disarm => exact ⟨_, exec_disarm s, rfl⟩
  | setDirection dir => exact exec_setDirection_answers dir s
  | brake => exact exec_brake_answers s
  | _ => cases hi

/-- Every CMD word in front is answered, with its code and a snapshot of the state the step leaves. -/
theorem step_cmd_answers {s : State} {w : CmdWord} {rest : List PortWord} (h : s.inputs = .cmd w :: rest) :
    ∃ t, step s = .next t ∧ t.response = some (rspWord (cmdWordCode w s.esc) t.esc) := by
  rcases decode_cmd_cases w with ⟨i, hd, hi⟩ | ⟨r, hd, hr⟩
  · simp only [step, cmdWordCode, State.fetch_cons s _ rest h, hd]
    exact exec_command_answers hi _
  · simp only [step, cmdWordCode, State.fetch_cons s _ rest h, hd]
    rcases hr with rfl | rfl <;> exact ⟨_, rfl, rfl⟩

/-- The code in a response word tells the result code. -/
theorem ResultCode.bits_eq_bits {c d : ResultCode} : c.bits = d.bits ↔ c = d := by
  cases c <;> cases d <;> decide

/-- Settles O39: the step answers with the code of its word, and each code is that of exactly its causes. -/
theorem everyCommandIsAnsweredWithItsCode : Obligations.EveryCommandIsAnsweredWithItsCode := by
  unfold Obligations.EveryCommandIsAnsweredWithItsCode
  intro s w rest hin
  obtain ⟨t, ht, hr⟩ := step_cmd_answers hin
  refine ⟨t, _, ht, hr, ?_⟩
  rw [rspCode_rspWord, show 1#2 = ResultCode.validationError.bits from rfl,
    show 2#2 = ResultCode.capabilityError.bits from rfl, show 3#2 = ResultCode.notArmedError.bits from rfl]
  simp only [ResultCode.bits_eq_bits, cmdWordCode]
  cases hd : decode (.cmd w) with
  | error r => simp
  | ok i =>
    simp only [Except.ok.injEq, reduceCtorEq, exists_false, false_or]
    exact ⟨commandCode_eq_validationError i s.esc, commandCode_eq_capabilityError i s.esc,
      commandCode_eq_notArmedError i s.esc⟩

end Machine
end Sys2Proof
end

section
/-! ### Proofs of 30_encoding.md: the rows of the opcode map, decoder and encoder -/

namespace Sys2Proof

/-! #### The rows of the command word (R103, R105) -/

/-- The seven rows of the opcode map over the layouts of R105: opcode, must-be-zero mask, and the instruction the operand
fields of `w` make. -/
inductive CommandRow (w : CmdWord) : BitVec 4 → CmdWord → Instr → Prop where
  | getStatus : CommandRow w 0x1#4 0x0FFFFFFF#32 .getStatus
  | configure : CommandRow w 0x2#4 0x03FF0000#32 (decodeConfigure w)
  | setThrottle : CommandRow w 0x3#4 0x0F000000#32 (.setThrottle (w.extractLsb' 0 24).toInt)
  | arm : CommandRow w 0x4#4 0x0FFFFFFF#32 .arm
  | disarm : CommandRow w 0x5#4 0x0FFFFFFF#32 .disarm
  | setDirection : CommandRow w 0x6#4 0x0FFFFF00#32 (.setDirection (directionArgOfCode (w.extractLsb' 0 8)))
  | brake : CommandRow w 0x7#4 0x0FFFFFFF#32 .brake

/-- A word with a row's opcode is decoded by that row. -/
theorem CommandRow.decodeCmd_eq {w mask : CmdWord} {op : BitVec 4} {i : Instr} (row : CommandRow w op mask i)
    (hop : w.extractLsb' 28 4 = op) : decodeCmd w = checked w mask i := by
  cases row <;> simp [decodeCmd, hop]

theorem checked_ok {w mask : CmdWord} {i j : Instr} (h : checked w mask j = .ok i) : j = i ∧ w &&& mask = 0#32 := by
  rw [checked] at h
  split at h
  · next hclear => exact ⟨Except.ok.inj h, by simpa [bitsClear] using hclear⟩
  · cases h

/-- What decodes has a row's opcode and that row's must-be-zero bits zero. -/
theorem decodeCmd_ok {w : CmdWord} {i : Instr} (h : decodeCmd w = .ok i) :
    ∃ op mask, CommandRow w op mask i ∧ w.extractLsb' 28 4 = op ∧ w &&& mask = 0#32 := by
  unfold decodeCmd at h
  dsimp only at h
  split_ifs at h with h1 h2 h3 h4 h5 h6 h7
  all_goals obtain ⟨rfl, hclear⟩ := checked_ok h
  · exact ⟨_, _, .getStatus, h1, hclear⟩
  · exact ⟨_, _, .configure, h2, hclear⟩
  · exact ⟨_, _, .setThrottle, h3, hclear⟩
  · exact ⟨_, _, .arm, h4, hclear⟩
  · exact ⟨_, _, .disarm, h5, hclear⟩
  · exact ⟨_, _, .setDirection, h6, hclear⟩
  · exact ⟨_, _, .brake, h7, hclear⟩

/-- The opcode of a word that agrees with `pattern` under a mask over all four opcode bits. -/
theorem opcode_of_masked {w mask pattern : CmdWord} (h : w &&& mask = pattern) (hmask : mask.extractLsb' 28 4 = 0xF#4) :
    w.extractLsb' 28 4 = pattern.extractLsb' 28 4 := by
  rw [← h, BitVec.extractLsb'_and, hmask]
  exact BitVec.and_allOnes.symm

/-- Bits that `mask` fixes to zeros of `pattern` are clear. -/
theorem bitsClear_of_masked {w mask pattern : CmdWord} (h : w &&& mask = pattern) (zeros : CmdWord)
    (hzeros : mask &&& zeros = zeros) (hpattern : pattern &&& zeros = 0#32) : bitsClear w zeros = true := by
  rw [bitsClear, beq_iff_eq, ← hzeros, ← BitVec.and_assoc, h, hpattern]

/-- The word of a row, given by its fixed bits, decodes to the row's instruction. -/
theorem CommandRow.decode_of_masked {w mask pattern zeros : CmdWord} {op : BitVec 4} {i : Instr}
    (row : CommandRow w op zeros i) (h : w &&& mask = pattern) (hmask : mask.extractLsb' 28 4 = 0xF#4)
    (hop : pattern.extractLsb' 28 4 = op) (hzeros : mask &&& zeros = zeros) (hpattern : pattern &&& zeros = 0#32) :
    decode (.cmd w) = .ok i := by
  rw [decode, row.decodeCmd_eq ((opcode_of_masked h hmask).trans hop), checked,
    if_pos (bitsClear_of_masked h zeros hzeros hpattern)]

/-! #### Operands (R104) -/

/-- A signed field holds every integer of its range. -/
theorem toInt_ofInt_of_pinFits {p : Int} (h : pinFits p = true) : (BitVec.ofInt 8 p).toInt = p := by
  simp only [pinFits, Bool.and_eq_true, decide_eq_true_eq] at h
  rw [BitVec.toInt_ofInt]
  exact Int.bmod_eq_of_le (by omega) (by omega)

theorem toInt_ofInt_of_valueFits {v : Int} (h : valueFits v = true) : (BitVec.ofInt 24 v).toInt = v := by
  simp only [valueFits, Bool.and_eq_true, decide_eq_true_eq] at h
  rw [BitVec.toInt_ofInt]
  exact Int.bmod_eq_of_le (by omega) (by omega)

theorem pinFits_toInt (b : BitVec 8) : pinFits b.toInt = true := by
  have hlo := BitVec.le_toInt b
  have hhi := BitVec.toInt_lt (x := b)
  simp only [pinFits, Bool.and_eq_true, decide_eq_true_eq]
  omega

theorem valueFits_toInt (b : BitVec 24) : valueFits b.toInt = true := by
  have hlo := BitVec.le_toInt b
  have hhi := BitVec.toInt_lt (x := b)
  simp only [valueFits, Bool.and_eq_true, decide_eq_true_eq]
  omega

/-- Codes of eight bits are told apart by their numbers. -/
theorem ofNat_ne_of_lt {code k : Nat} (h : k < code) (hcode : code ≤ 255) : BitVec.ofNat 8 code ≠ BitVec.ofNat 8 k := by
  rw [ne_eq, ← BitVec.toNat_inj, BitVec.toNat_ofNat, BitVec.toNat_ofNat]
  omega

theorem protocolArgOfCode_code {a : ProtocolArg} (h : a.wellFormed = true) : protocolArgOfCode a.code = a := by
  cases a with
  | known p => cases p <;> decide
  | unrecognized code =>
    simp only [ProtocolArg.wellFormed, Bool.and_eq_true, decide_eq_true_eq] at h
    obtain ⟨hlo, hhi⟩ := h
    rw [protocolArgOfCode, ProtocolArg.code, if_neg (ofNat_ne_of_lt (k := 0) (by omega) hhi),
      if_neg (ofNat_ne_of_lt (k := 1) (by omega) hhi), if_neg (ofNat_ne_of_lt (k := 2) (by omega) hhi),
      if_neg (ofNat_ne_of_lt (k := 3) (by omega) hhi), BitVec.toNat_ofNat, Nat.mod_eq_of_lt (by omega)]

theorem directionArgOfCode_code {a : DirectionArg} (h : a.wellFormed = true) : directionArgOfCode a.code = a := by
  cases a with
  | known d => cases d <;> decide
  | unrecognized code =>
    simp only [DirectionArg.wellFormed, Bool.and_eq_true, decide_eq_true_eq] at h
    obtain ⟨hlo, hhi⟩ := h
    rw [directionArgOfCode, DirectionArg.code, if_neg (ofNat_ne_of_lt (k := 0) (by omega) hhi),
      if_neg (ofNat_ne_of_lt (k := 1) (by omega) hhi), if_neg (ofNat_ne_of_lt (k := 2) (by omega) hhi),
      BitVec.toNat_ofNat, Nat.mod_eq_of_lt (by omega)]

theorem code_protocolArgOfCode (b : BitVec 8) : (protocolArgOfCode b).code = b := by
  unfold protocolArgOfCode
  split_ifs with h0 h1 h2 h3
  · rw [h0]; rfl
  · rw [h1]; rfl
  · rw [h2]; rfl
  · rw [h3]; rfl
  · exact (BitVec.ofNat_toNat 8 b).trans (BitVec.setWidth_eq b)

theorem code_directionArgOfCode (b : BitVec 8) : (directionArgOfCode b).code = b := by
  unfold directionArgOfCode
  split_ifs with h0 h1 h2
  · rw [h0]; rfl
  · rw [h1]; rfl
  · rw [h2]; rfl
  · exact (BitVec.ofNat_toNat 8 b).trans (BitVec.setWidth_eq b)

theorem protocolArgOfCode_wellFormed (b : BitVec 8) : (protocolArgOfCode b).wellFormed = true := by
  have hb := b.isLt
  unfold protocolArgOfCode
  split_ifs with h0 h1 h2 h3
  · rfl
  · rfl
  · rfl
  · rfl
  · simp only [← BitVec.toNat_inj, BitVec.toNat_ofNat] at h0 h1 h2 h3
    simp only [ProtocolArg.wellFormed, Bool.and_eq_true, decide_eq_true_eq]
    omega

theorem directionArgOfCode_wellFormed (b : BitVec 8) : (directionArgOfCode b).wellFormed = true := by
  have hb := b.isLt
  unfold directionArgOfCode
  split_ifs with h0 h1 h2
  · rfl
  · rfl
  · rfl
  · simp only [← BitVec.toNat_inj, BitVec.toNat_ofNat] at h0 h1 h2
    simp only [DirectionArg.wellFormed, Bool.and_eq_true, decide_eq_true_eq]
    omega

/-! #### The words (R105, R90, R109) -/

/-- A word of `configure` has the fixed bits of its row, its `P` and `Q` bits say which operands are there, and the operand
fields read back. -/
theorem decodeConfigure_encodeConfigure {pin : Option Int} {protocol : Option ProtocolArg}
    (hwf : (Instr.configure pin protocol).wellFormed = true) :
    decodeConfigure (encodeConfigure pin protocol) = .configure pin protocol := by
  have hP : (encodeConfigure pin protocol).getLsbD 27 = pin.isSome := by
    simp [encodeConfigure, fieldAt]
  have hQ : (encodeConfigure pin protocol).getLsbD 26 = protocol.isSome := by
    simp [encodeConfigure, fieldAt]
  obtain ⟨hpin, hprotocol⟩ := (Bool.and_eq_true _ _).mp hwf
  have hpin8 : ∀ v, pin = some v → ((encodeConfigure pin protocol).extractLsb' 0 8).toInt = v := by
    rintro v rfl
    have hfield : (encodeConfigure (some v) protocol).extractLsb' 0 8 = BitVec.ofInt 8 v := by
      simp (disch := omega) [encodeConfigure, BitVec.extractLsb'_or, extractLsb'_fieldAt_same, extractLsb'_fieldAt_other]
    rw [hfield, toInt_ofInt_of_pinFits hpin]
  have hproto8 : ∀ a, protocol = some a → protocolArgOfCode ((encodeConfigure pin protocol).extractLsb' 8 8) = a := by
    rintro a rfl
    have hfield : (encodeConfigure pin (some a)).extractLsb' 8 8 = a.code := by
      simp (disch := omega) [encodeConfigure, BitVec.extractLsb'_or, extractLsb'_fieldAt_same, extractLsb'_fieldAt_other]
    rw [hfield, protocolArgOfCode_code hprotocol]
  rw [decodeConfigure, hP, hQ]
  congr 1
  · cases pin with
    | none => rfl
    | some v => exact congrArg some (hpin8 v rfl)
  · cases protocol with
    | none => rfl
    | some a => exact congrArg some (hproto8 a rfl)

/-- The frame of a value decodes to the row of that value. -/
theorem decode_encodeFrame (v : Value) : decode (.frame (Machine.encodeFrame v)) = .ok (frameInstr v) := by
  simp [decode, decodeFrame]

theorem frameInstr_of_not_special {v : Value} (h : isSpecialValue v = false) : frameInstr v = .frame v := by
  simp only [isSpecialValue, Bool.or_eq_false_iff, beq_eq_false_iff_ne] at h
  obtain ⟨⟨h0, h20⟩, h21⟩ := h
  rw [frameInstr, if_neg h0, if_neg h20, if_neg h21]

/-- Settles O1: an instruction with operands has its row's fixed bits (the family EncodesItsRow), so its row decodes it, and
the operand fields read back; the other words are closed. -/
theorem encodeThenDecodeGivesTheInstruction : Obligations.EncodeThenDecodeGivesTheInstruction := by
  unfold Obligations.EncodeThenDecodeGivesTheInstruction
  intro i hwf
  cases i with
  | configure pin protocol =>
    obtain ⟨w, hw, hrow⟩ := Laws.EncodesItsRow.configure pin protocol hwf
    obtain rfl := PortWord.cmd.inj hw
    rw [hw, (CommandRow.configure).decode_of_masked hrow (by decide) (by decide) (by decide) (by decide),
      decodeConfigure_encodeConfigure hwf]
  | setThrottle value =>
    obtain ⟨w, hw, hrow⟩ := Laws.EncodesItsRow.setThrottle value hwf
    obtain rfl := PortWord.cmd.inj hw
    rw [hw, (CommandRow.setThrottle).decode_of_masked hrow (by decide) (by decide) (by decide) (by decide),
      BitVec.extractLsb'_or, extractLsb'_fieldAt_same _ (by decide), extractLsb'_fieldAt_other _ (by decide) (by decide),
      BitVec.zero_or, toInt_ofInt_of_valueFits hwf]
  | setDirection dir =>
    obtain ⟨w, hw, hrow⟩ := Laws.EncodesItsRow.setDirection dir hwf
    obtain rfl := PortWord.cmd.inj hw
    rw [hw, (CommandRow.setDirection).decode_of_masked hrow (by decide) (by decide) (by decide) (by decide),
      BitVec.extractLsb'_or, extractLsb'_fieldAt_same _ (by decide), extractLsb'_fieldAt_other _ (by decide) (by decide),
      BitVec.zero_or, directionArgOfCode_code hwf]
  | frame v => rw [encode, decode_encodeFrame, frameInstr_of_not_special (by simpa [Instr.wellFormed] using hwf)]
  | getStatus => decide
  | arm => decide
  | disarm => decide
  | brake => decide
  | tick => decide
  | reset => decide
  | frameMotorStop => decide
  | frameSpinDirectionNormal => decide
  | frameCommand21 => decide

/-! #### What the decoder accepts -/

theorem decodeStrobe_ok {w : BitVec 2} {i : Instr} (h : decodeStrobe w = .ok i) :
    w = 0b01#2 ∧ i = .tick ∨ w = 0b10#2 ∧ i = .reset := by
  unfold decodeStrobe at h
  split_ifs at h with h1 h2
  · exact .inl ⟨h1, (Except.ok.inj h).symm⟩
  · exact .inr ⟨h2, (Except.ok.inj h).symm⟩

/-- A frame decodes exactly where its telemetry bit is 0 and its checksum is that of its value (R94, R106). -/
theorem decodeFrame_ok {f : FrameWord} {i : Instr} (h : decodeFrame f = .ok i) :
    Machine.frameTelem f = false ∧ Machine.frameCrc f = Machine.crc4 (Machine.frameValue f) ∧
      i = frameInstr (Machine.frameValue f) := by
  unfold decodeFrame at h
  split_ifs at h with htelem hcrc
  exact ⟨by simpa using htelem, hcrc, (Except.ok.inj h).symm⟩

/-- Such a frame is the frame of its value. -/
theorem encodeFrame_frameValue {f : FrameWord} (htelem : Machine.frameTelem f = false)
    (hcrc : Machine.frameCrc f = Machine.crc4 (Machine.frameValue f)) : Machine.encodeFrame (Machine.frameValue f) = f := by
  ext k hk
  rw [← BitVec.getLsbD_eq_getElem, Machine.getLsbD_encodeFrame _ hk, ← hcrc, ← BitVec.getLsbD_eq_getElem]
  rw [Machine.frameTelem] at htelem
  rcases Nat.lt_trichotomy k 4 with low | rfl | high
  · simp [Machine.frameCrc, show ¬ 5 ≤ k by omega, low]
  · rw [htelem]; simp [Machine.frameCrc]
  · simp [Machine.frameValue, show 5 ≤ k by omega, show k - 5 < 11 by omega]

theorem frameInstr_wellFormed (v : Value) : (frameInstr v).wellFormed = true := by
  unfold frameInstr
  split_ifs with h0 h20 h21
  · rfl
  · rfl
  · rfl
  · simp [Instr.wellFormed, isSpecialValue, h0, h20, h21]

theorem encode_frameInstr (v : Value) : encode (frameInstr v) = .frame (Machine.encodeFrame v) := by
  unfold frameInstr
  split_ifs with h0 h20 h21
  · rw [h0]; rfl
  · rw [h20]; rfl
  · rw [h21]; rfl
  · rfl

theorem decodeConfigure_wellFormed (w : CmdWord) : (decodeConfigure w).wellFormed = true := by
  refine (Bool.and_eq_true _ _).mpr ⟨?_, ?_⟩
  · cases w.getLsbD 27 with
    | false => rfl
    | true => exact pinFits_toInt _
  · cases w.getLsbD 26 with
    | false => rfl
    | true => exact protocolArgOfCode_wellFormed _

theorem CommandRow.wellFormed {w mask : CmdWord} {op : BitVec 4} {i : Instr} (row : CommandRow w op mask i) :
    i.wellFormed = true := by
  cases row with
  | configure => exact decodeConfigure_wellFormed w
  | setThrottle => exact valueFits_toInt _
  | setDirection => exact directionArgOfCode_wellFormed _
  | getStatus => rfl
  | arm => rfl
  | disarm => rfl
  | brake => rfl

/-- Settles O2: port by port, the operands are read from the fields that carry them. -/
theorem decodedInstructionIsWellFormed : Obligations.DecodedInstructionIsWellFormed := by
  unfold Obligations.DecodedInstructionIsWellFormed
  intro w i h
  cases w with
  | cmd w =>
    obtain ⟨op, mask, row, -, -⟩ := decodeCmd_ok h
    exact row.wellFormed
  | strobe w =>
    rcases decodeStrobe_ok h with ⟨-, rfl⟩ | ⟨-, rfl⟩
    · rfl
    · rfl
  | frame f =>
    obtain ⟨-, -, rfl⟩ := decodeFrame_ok h
    exact frameInstr_wellFormed _

/-! #### A word put together from its fields -/

/-- A field read and put back is the word under the field's mask. -/
theorem fieldAt_extractLsb' (w : CmdWord) (lo n : Nat) :
    fieldAt lo (w.extractLsb' lo n) = w &&& fieldAt lo (BitVec.allOnes n) := by
  ext k hk
  rw [BitVec.getElem_and, getElem_fieldAt _ hk, getElem_fieldAt _ hk, BitVec.getLsbD_extractLsb', BitVec.getLsbD_allOnes]
  by_cases hlo : k < lo
  · simp [hlo]
  · rw [Nat.add_sub_of_le (by omega), BitVec.getLsbD_eq_getElem hk]
    simp [hlo, Bool.and_comm]

theorem fieldAt_opcode {w : CmdWord} {op : BitVec 4} (hop : w.extractLsb' 28 4 = op) :
    fieldAt 28 op = w &&& 0xF0000000#32 := by
  rw [← hop, fieldAt_extractLsb' w _ _]
  congr 1

/-- A word is made of its opcode and its operand bits, the must-be-zero bits being zero. -/
theorem masked_or_masked {w opcode operands zeros : CmdWord} (hclear : w &&& zeros = 0#32)
    (hall : opcode ||| operands ||| zeros = BitVec.allOnes 32) : w &&& opcode ||| w &&& operands = w := by
  calc w &&& opcode ||| w &&& operands
      = w &&& opcode ||| w &&& operands ||| w &&& zeros := by rw [hclear, BitVec.or_zero]
    _ = w &&& (opcode ||| operands ||| zeros) := by rw [BitVec.and_or_distrib_left, BitVec.and_or_distrib_left]
    _ = w := by rw [hall, BitVec.and_allOnes]

/-- A row without operands: the word is its opcode. -/
theorem eq_fieldAt_opcode {w : CmdWord} {op : BitVec 4} (hop : w.extractLsb' 28 4 = op)
    (hclear : w &&& 0x0FFFFFFF#32 = 0#32) : fieldAt 28 op = w := by
  rw [fieldAt_opcode hop]
  simpa using masked_or_masked (opcode := 0xF0000000#32) (operands := 0#32) hclear (by decide)

theorem encode_setThrottle_fields {w : CmdWord} (hop : w.extractLsb' 28 4 = 0x3#4) (hclear : w &&& 0x0F000000#32 = 0#32) :
    encode (.setThrottle (w.extractLsb' 0 24).toInt) = .cmd w := by
  rw [encode, BitVec.ofInt_toInt, fieldAt_opcode hop, fieldAt_extractLsb' w _ _]
  exact congrArg PortWord.cmd (masked_or_masked hclear (by decide))

theorem encode_setDirection_fields {w : CmdWord} (hop : w.extractLsb' 28 4 = 0x6#4) (hclear : w &&& 0x0FFFFF00#32 = 0#32) :
    encode (.setDirection (directionArgOfCode (w.extractLsb' 0 8))) = .cmd w := by
  rw [encode, code_directionArgOfCode, fieldAt_opcode hop, fieldAt_extractLsb' w _ _]
  exact congrArg PortWord.cmd (masked_or_masked hclear (by decide))

/-- The row of a command word puts the word together again, `configure`'s ignored bits apart. -/
theorem CommandRow.encode_eq {w mask : CmdWord} {op : BitVec 4} {i : Instr} (row : CommandRow w op mask i)
    (hop : w.extractLsb' 28 4 = op) (hclear : w &&& mask = 0#32) (hi : ∀ pin protocol, i ≠ .configure pin protocol) :
    encode i = .cmd w := by
  cases row with
  | configure => exact absurd rfl (hi _ _)
  | setThrottle => exact encode_setThrottle_fields hop hclear
  | setDirection => exact encode_setDirection_fields hop hclear
  | getStatus => exact congrArg PortWord.cmd (eq_fieldAt_opcode hop hclear)
  | arm => exact congrArg PortWord.cmd (eq_fieldAt_opcode hop hclear)
  | disarm => exact congrArg PortWord.cmd (eq_fieldAt_opcode hop hclear)
  | brake => exact congrArg PortWord.cmd (eq_fieldAt_opcode hop hclear)

/-- A single bit of a word is a field of it. -/
theorem extractLsb'_one (w : CmdWord) (k : Nat) : w.extractLsb' k 1 = BitVec.ofBool (w.getLsbD k) := by
  ext j hj
  obtain rfl : j = 0 := by omega
  simp

/-- The fields of a `configure` word, those of an absent operand zero (R105). -/
theorem encodeConfigure_eq (pin : Option Int) (protocol : Option ProtocolArg) :
    encodeConfigure pin protocol = fieldAt 28 0x2#4 ||| fieldAt 27 (BitVec.ofBool pin.isSome) |||
      fieldAt 26 (BitVec.ofBool protocol.isSome) ||| fieldAt 8 ((protocol.map ProtocolArg.code).getD 0#8) |||
      fieldAt 0 ((pin.map (BitVec.ofInt 8)).getD 0#8) := by
  cases pin <;> cases protocol <;> rfl

theorem isSome_guarded {α : Type} (b : Bool) (x : α) : (if b then some x else none).isSome = b := by
  cases b <;> rfl

/-- One bit of a word, put back at its place. -/
theorem fieldAt_bit (w : CmdWord) (k : Nat) :
    fieldAt k (BitVec.ofBool (w.getLsbD k)) = w &&& fieldAt k 1#1 := by
  rw [← extractLsb'_one, fieldAt_extractLsb' w _ _]
  rfl

/-- `pin8` put back, where `P` guards it (R104). -/
theorem fieldAt_guarded_pin (w : CmdWord) (P : Bool) :
    fieldAt 0 (((if P then some (w.extractLsb' 0 8).toInt else none).map (BitVec.ofInt 8)).getD 0#8) =
      w &&& (if P then 0x000000FF#32 else 0#32) := by
  cases P with
  | false => exact BitVec.and_zero.symm
  | true =>
    refine (congrArg (fieldAt 0) BitVec.ofInt_toInt).trans ?_
    exact fieldAt_extractLsb' w _ _

/-- `proto8` put back, where `Q` guards it (R104). -/
theorem fieldAt_guarded_protocol (w : CmdWord) (Q : Bool) :
    fieldAt 8 (((if Q then some (protocolArgOfCode (w.extractLsb' 8 8)) else none).map ProtocolArg.code).getD 0#8) =
      w &&& (if Q then 0x0000FF00#32 else 0#32) := by
  cases Q with
  | false => exact BitVec.and_zero.symm
  | true =>
    refine (congrArg (fieldAt 8) (code_protocolArgOfCode _)).trans ?_
    exact fieldAt_extractLsb' w _ _

/-- The five fields of a `configure` word make the word, the operand bits that `P` and `Q` do not guard cleared. -/
theorem encode_decodeConfigure {w : CmdWord} (hop : w.extractLsb' 28 4 = 0x2#4) :
    encode (decodeConfigure w) = .cmd (w &&& (0xFC000000#32 ||| (if w.getLsbD 27 then 0x000000FF#32 else 0#32) |||
      (if w.getLsbD 26 then 0x0000FF00#32 else 0#32))) := by
  rw [decodeConfigure, encode, encodeConfigure_eq, fieldAt_opcode hop, isSome_guarded, isSome_guarded,
    fieldAt_bit, fieldAt_bit, fieldAt_guarded_pin, fieldAt_guarded_protocol]
  simp only [← BitVec.and_or_distrib_left]
  cases w.getLsbD 27 <;> cases w.getLsbD 26 <;> rfl

theorem frameInstr_ne_configure (v : Value) (pin : Option Int) (protocol : Option ProtocolArg) :
    frameInstr v ≠ .configure pin protocol := by
  unfold frameInstr
  split_ifs <;> exact Instr.noConfusion

/-- Settles O3: port by port; a command word's row puts it together again, and a frame is the frame of its value. -/
theorem decodedWordIsReencoded : Obligations.DecodedWordIsReencoded := by
  unfold Obligations.DecodedWordIsReencoded
  intro w i h
  cases w with
  | cmd w =>
    obtain ⟨op, mask, row, hop, hclear⟩ := decodeCmd_ok h
    refine ⟨row.encode_eq hop hclear, ?_⟩
    rintro pin protocol rfl
    generalize hi : Instr.configure pin protocol = i at row
    cases row with
    | configure => exact ⟨w, rfl, encode_decodeConfigure hop⟩
    | _ => cases hi
  | strobe w =>
    rcases decodeStrobe_ok h with ⟨rfl, rfl⟩ | ⟨rfl, rfl⟩
    · exact ⟨fun _ => rfl, fun _ _ hi => nomatch hi⟩
    · exact ⟨fun _ => rfl, fun _ _ hi => nomatch hi⟩
  | frame f =>
    obtain ⟨htelem, hcrc, rfl⟩ := decodeFrame_ok h
    refine ⟨fun _ => ?_, fun pin protocol hi => ?_⟩
    · rw [encode_frameInstr, encodeFrame_frameValue htelem hcrc]
    · exact absurd hi (frameInstr_ne_configure _ _ _)

/-- Settles O4: each word is a closed term. -/
theorem wordsOfTheSpecDecode : Obligations.WordsOfTheSpecDecode := by
  unfold Obligations.WordsOfTheSpecDecode
  decide

/-! #### Words that are no instruction (R106, R109) -/

/-- The opcode as a number. -/
theorem toNat_opcode (w : CmdWord) : (w.extractLsb' 28 4).toNat = w.toNat / 2 ^ 28 := by
  have hw := w.isLt
  rw [BitVec.extractLsb'_toNat, Nat.shiftRight_eq_div_pow]
  omega

theorem opcode_eq {w : CmdWord} (op : BitVec 4) (h : w.toNat / 2 ^ 28 = op.toNat) : w.extractLsb' 28 4 = op :=
  BitVec.eq_of_toNat_eq ((toNat_opcode w).trans h)

theorem decodeCmd_reserved {w : CmdWord} (h : w.toNat / 2 ^ 28 = 0 ∨ 8 ≤ w.toNat / 2 ^ 28) :
    decodeCmd w = .error .reservedOpcode := by
  rw [← toNat_opcode] at h
  unfold decodeCmd
  dsimp only
  split_ifs with h1 h2 h3 h4 h5 h6 h7
  case neg => rfl
  all_goals simp_all

/-- A must-be-zero bit that is set rejects the word of a row. -/
theorem CommandRow.decodeCmd_mustBeZero {w mask : CmdWord} {op : BitVec 4} {i : Instr} (row : CommandRow w op mask i)
    (hop : w.toNat / 2 ^ 28 = op.toNat) (hbits : w &&& mask ≠ 0#32) : decodeCmd w = .error .mustBeZero := by
  rw [row.decodeCmd_eq (opcode_eq op hop), checked, if_neg (by simpa [bitsClear] using hbits)]

/-- The words of D8 are rejected for one of the two reasons of R106. -/
theorem decodeCmd_rejects {w : CmdWord} (h : w.toNat / 2 ^ 28 = 0 ∨ 8 ≤ w.toNat / 2 ^ 28 ∨
      (w.toNat / 2 ^ 28 = 2 ∧ w &&& 0x03FF0000#32 ≠ 0#32) ∨
      (w.toNat / 2 ^ 28 = 3 ∧ w &&& 0x0F000000#32 ≠ 0#32) ∨
      (w.toNat / 2 ^ 28 = 6 ∧ w &&& 0x0FFFFF00#32 ≠ 0#32) ∨
      (w.toNat / 2 ^ 28 ∈ [1, 4, 5, 7] ∧ w &&& 0x0FFFFFFF#32 ≠ 0#32)) :
    decodeCmd w = .error .reservedOpcode ∨ decodeCmd w = .error .mustBeZero := by
  rcases h with h0 | h8 | ⟨h2, hbits⟩ | ⟨h3, hbits⟩ | ⟨h6, hbits⟩ | ⟨hplain, hbits⟩
  · exact .inl (decodeCmd_reserved (.inl h0))
  · exact .inl (decodeCmd_reserved (.inr h8))
  · exact .inr (CommandRow.configure.decodeCmd_mustBeZero h2 hbits)
  · exact .inr (CommandRow.setThrottle.decodeCmd_mustBeZero h3 hbits)
  · exact .inr (CommandRow.setDirection.decodeCmd_mustBeZero h6 hbits)
  · simp only [List.mem_cons, List.not_mem_nil, or_false] at hplain
    rcases hplain with h1 | h4 | h5 | h7
    · exact .inr (CommandRow.getStatus.decodeCmd_mustBeZero h1 hbits)
    · exact .inr (CommandRow.arm.decodeCmd_mustBeZero h4 hbits)
    · exact .inr (CommandRow.disarm.decodeCmd_mustBeZero h5 hbits)
    · exact .inr (CommandRow.brake.decodeCmd_mustBeZero h7 hbits)

namespace Machine

/-- A step whose word is an instruction runs it, on the state with the word taken. -/
theorem step_of_decode_ok {s : State} {w : PortWord} {rest : List PortWord} {i : Instr} (hin : s.inputs = w :: rest)
    (hd : decode w = .ok i) : step s = exec i { s with inputs := rest } := by
  simp [step, State.fetch_cons s w rest hin, hd]

/-- A step whose word is none rejects it. -/
theorem step_of_decode_error {s : State} {w : PortWord} {rest : List PortWord} {r : DecodeError}
    (hin : s.inputs = w :: rest) (hd : decode w = .error r) : step s = rejectWord r { s with inputs := rest } := by
  simp [step, State.fetch_cons s w rest hin, hd]

theorem step_of_no_inputs {s : State} (h : s.inputs = []) : step s = .next s := by
  simp [step, h, waitForEvent]

/-- Settles O5: the word is rejected by its opcode or by a must-be-zero bit, and either way ValidationError is the answer. -/
theorem reservedCommandWordIsAnswered : Obligations.ReservedCommandWordIsAnswered := by
  unfold Obligations.ReservedCommandWordIsAnswered
  intro s w rest hin hw
  refine ⟨rspWord .validationError s.esc, ?_, rspCode_rspWord _ _⟩
  rcases decodeCmd_rejects hw with hd | hd
  · rw [step_of_decode_error hin hd]
    rfl
  · rw [step_of_decode_error hin hd]
    rfl

/-- A frame of no value has its telemetry bit set or a wrong checksum. -/
theorem decodeFrame_error_of_ne {f : FrameWord} (h : ∀ v, encodeFrame v ≠ f) :
    decodeFrame f = .error .telemetrySet ∨ decodeFrame f = .error .badChecksum := by
  unfold decodeFrame
  split_ifs with htelem hcrc
  · exact .inl rfl
  · exact absurd (encodeFrame_frameValue (by simpa using htelem) hcrc) (h _)
  · exact .inr rfl

/-- Settles O6: each word is rejected under the name of its reason. -/
theorem wordsNeverPresentedStopByName : Obligations.WordsNeverPresentedStopByName := by
  unfold Obligations.WordsNeverPresentedStopByName
  intro s rest
  refine ⟨fun hin => step_of_decode_error hin (r := .noEvent) (by decide),
    fun hin => step_of_decode_error hin (r := .bothStrobes) (by decide), fun f hin hne => ?_⟩
  rcases decodeFrame_error_of_ne hne with hd | hd
  · exact step_of_decode_error hin hd
  · exact step_of_decode_error hin hd

/-- A table word that decodes has a port that carries it, where it decodes to the same instruction. -/
theorem decodeTableWord_some {nbits w : Nat} {i : Instr} (h : decodeTableWord nbits w = some i) :
    ∃ p, tablePortWord nbits w = some p ∧ decode p = .ok i := by
  unfold decodeTableWord at h
  split at h
  · cases h
  · next p hp =>
    refine ⟨p, hp, ?_⟩
    split at h
    · next j hj => rw [hj, Option.some.inj h]
    · cases h

/-- Settles O7: the fetch takes the word in front, which for a table word is the one put there. -/
theorem stepRunsThePresentedInstruction : Obligations.StepRunsThePresentedInstruction := by
  unfold Obligations.StepRunsThePresentedInstruction
  refine ⟨fun s w rest i => step_of_decode_ok, fun s => step_of_no_inputs, fun s nbits w i h => ?_⟩
  obtain ⟨p, hp, hd⟩ := decodeTableWord_some h
  exact step_of_decode_ok (s := s.withFetchWord nbits w) (w := p) (rest := s.inputs) (by simp [State.withFetchWord, hp]) hd

end Machine

end Sys2Proof
end

section
/-! ### Proofs of 41 to 43: properties of the frame, its waveform, and the burst -/

namespace Sys2Proof.Machine

/-! #### The frame builder (R144) -/

theorem packet_xor (a b : Value) : packet (a ^^^ b) = packet a ^^^ packet b := by
  rw [packet, BitVec.setWidth_xor, BitVec.shiftLeft_xor_distrib]
  rfl

/-- The checksum is three XORs of nibbles of the packet, so it is linear. -/
theorem crc4_xor (a b : Value) : crc4 (a ^^^ b) = crc4 a ^^^ crc4 b := by
  simp only [crc4, crcRounds_three, packet_xor, BitVec.ushiftRight_xor_distrib, BitVec.setWidth_xor, BitVec.zero_xor]
  ac_rfl

theorem toNat_packet (v : Value) : (packet v).toNat = 2 * v.toNat := by
  have hv := v.isLt
  rw [packet, BitVec.toNat_shiftLeft, BitVec.toNat_setWidth, Nat.shiftLeft_eq]
  omega

theorem encodeFrame_injective {a b : Value} (h : encodeFrame a = encodeFrame b) : a = b := by
  rw [← frameValue_encodeFrame a, h, frameValue_encodeFrame]

/-- The nibbles above the checksum are those of the packet. -/
theorem getLsbD_encodeFrame_packet (v : Value) {k : Nat} (hk : k < 12) :
    (encodeFrame v).getLsbD (4 + k) = (packet v).getLsbD k := by
  rw [encodeFrame, BitVec.getLsbD_or, BitVec.getLsbD_shiftLeft, BitVec.getLsbD_setWidth,
    BitVec.getLsbD_of_ge (crc4 v) (4 + k) (by omega)]
  simp [show 4 + k < 16 by omega]

theorem getLsbD_encodeFrame_crc4 (v : Value) {k : Nat} (hk : k < 4) :
    (encodeFrame v).getLsbD k = ((packet v).getLsbD k ^^ (packet v).getLsbD (4 + k) ^^ (packet v).getLsbD (8 + k)) := by
  rw [getLsbD_encodeFrame v (by omega), if_neg (by omega)]
  simp [crc4, crcRounds_three, hk]

theorem xor_cancels : ∀ a b c mask : Bool, ((a ^^ b ^^ c ^^ a ^^ b ^^ c) && mask) = false := by decide

/-- The checksum cancels the three nibbles it was made of. -/
theorem frameNibbleXor_encodeFrame (v : Value) : frameNibbleXor (encodeFrame v) = 0#16 := by
  ext k hk
  rw [← BitVec.getLsbD_eq_getElem, ← BitVec.getLsbD_eq_getElem]
  simp only [frameNibbleXor, BitVec.getLsbD_and, BitVec.getLsbD_xor, BitVec.getLsbD_ushiftRight, BitVec.getLsbD_zero]
  by_cases h4 : k < 4
  · rw [getLsbD_encodeFrame_crc4 v h4, getLsbD_encodeFrame_packet v (by omega),
      show 8 + k = 4 + (4 + k) by omega, getLsbD_encodeFrame_packet v (by omega),
      show 12 + k = 4 + (4 + (4 + k)) by omega, getLsbD_encodeFrame_packet v (by omega)]
    exact xor_cancels _ _ _ _
  · have hmask : (0xF#16).getLsbD k = false := by interval_cases k <;> rfl
    rw [hmask, Bool.and_false]

/-- Settles O10: (a) and (c) from the fields reading back, (b) and (d) from the fold's closed form, (e) from the widths. -/
theorem frameProperties : Obligations.FrameProperties := by
  unfold Obligations.FrameProperties
  refine ⟨fun v => ⟨frameValue_encodeFrame v, frameTelem_encodeFrame v⟩, frameNibbleXor_encodeFrame,
    fun a b => encodeFrame_injective, crc4_xor, fun v => ?_⟩
  have hv := v.isLt
  have hpacket := toNat_packet v
  rw [BitVec.toNat_shiftLeft, Nat.shiftLeft_eq]
  omega

/-! #### The waveform of a frame (R153 to R155) -/

theorem frameBits_getElem? (f : FrameWord) {k : Nat} (hk : k < 16) : (frameBits f)[k]? = some (f.getLsbD (15 - k)) := by
  simp [frameBits, Config.frameBits, hk]

theorem bitEvents_eq (p : Pin) (t : BitTiming) (b : Bool) :
    bitEvents p t b = if b then [.level p .high, .wait t.t1h, .level p .low, .wait t.t1l]
      else [.level p .high, .wait t.t0h, .level p .low, .wait t.t0l] := by
  cases b <;> rfl

theorem traceDuration_bitEvents (p : Pin) (g : Grade) (b : Bool) :
    traceDuration (bitEvents p (timing g) b) = (timing g).period := by
  cases b with
  | true => simp [bitEvents, traceDuration, WireEvent.duration, timing_one_lasts_period]
  | false => simp [bitEvents, traceDuration, WireEvent.duration, timing_zero_lasts_period]

/-- Every bit lasts its period, so a row of bits lasts as many periods. -/
theorem traceDuration_bits (p : Pin) (g : Grade) (bits : List Bool) :
    traceDuration (bits.flatMap (bitEvents p (timing g))) = bits.length * (timing g).period := by
  induction bits with
  | nil => simp [traceDuration]
  | cons b bits ih =>
    rw [List.flatMap_cons, traceDuration_append, ih, traceDuration_bitEvents, List.length_cons, Nat.succ_mul, Nat.add_comm]

theorem length_bits (p : Pin) (t : BitTiming) (bits : List Bool) :
    (bits.flatMap (bitEvents p t)).length = 4 * bits.length := by
  simp [List.length_flatMap, bitEvents, Nat.mul_comm]

@[simp] theorem length_frameEvents (p : Pin) (t : BitTiming) (f : FrameWord) : (frameEvents p t f).length = 66 := by
  rw [frameEvents, List.length_append, List.length_append, length_bits, frameBits_length]
  rfl

@[simp] theorem traceDuration_frameEvents (p : Pin) (g : Grade) (f : FrameWord) :
    traceDuration (frameEvents p (timing g) f) = 16 * (timing g).period := by
  rw [frameEvents, traceDuration_append, traceDuration_append, traceDuration_bits, frameBits_length]
  simp [traceDuration, WireEvent.duration]

/-- Settles O12: the bits are the frame's own in sending order, and each contributes its four events and its period. -/
theorem frameWaveform : Obligations.FrameWaveform := by
  unfold Obligations.FrameWaveform
  intro p g f
  refine ⟨frameBits f, frameBits_length f, fun k => frameBits_getElem? f, ?_, timing_one_lasts_period g,
    timing_zero_lasts_period g, length_frameEvents p _ f, traceDuration_frameEvents p g f⟩
  rw [← funext (bitEvents_eq p (timing g))]
  simp [frameEvents]

/-! #### Reading the wire back (R132, R153) -/

theorem highTimes_bit (p : Pin) (t : BitTiming) (b : Bool) (rest : List WireEvent) :
    highTimes (bitEvents p t b ++ rest) = (if b then t.t1h else t.t0h) :: highTimes rest := by
  cases b <;> rfl

/-- One HIGH time per bit, in order. -/
theorem highTimes_bits (p : Pin) (t : BitTiming) (bits : List Bool) (rest : List WireEvent) :
    highTimes (bits.flatMap (bitEvents p t) ++ rest) = bits.map (fun b => if b then t.t1h else t.t0h) ++ highTimes rest := by
  induction bits with
  | nil => rfl
  | cons b bits ih => rw [List.flatMap_cons, List.append_assoc, highTimes_bit, ih, List.map_cons, List.cons_append]

theorem highTimes_frameEvents (p : Pin) (t : BitTiming) (f : FrameWord) :
    highTimes (frameEvents p t f) = (frameBits f).map (fun b => if b then t.t1h else t.t0h) := by
  calc highTimes (frameEvents p t f)
      = highTimes ((frameBits f).flatMap (bitEvents p t) ++ [.critExit]) := by rw [frameEvents, List.append_assoc]; rfl
    _ = (frameBits f).map (fun b => if b then t.t1h else t.t0h) := by rw [highTimes_bits]; exact List.append_nil _

/-- A 0 is told from a 1: no HIGH time of a 0 is one of a 1 (R132). -/
theorem timing_t0h_ne_t1h (g : Grade) : (timing g).t0h ≠ (timing g).t1h := by
  cases g <;> decide

/-- The receiver reads the bits that were sent. -/
theorem readBits_frameEvents (p : Pin) (g : Grade) (f : FrameWord) :
    readBits (timing g) (frameEvents p (timing g) f) = frameBits f := by
  rw [readBits, highTimes_frameEvents, List.map_map]
  refine (List.map_congr_left fun b _ => ?_).trans (List.map_id _)
  cases b with
  | true => simp
  | false => simpa using timing_t0h_ne_t1h g

theorem bitsToNat_append_one (bits : List Bool) (b : Bool) : bitsToNat (bits ++ [b]) = 2 * bitsToNat bits + b.toNat := by
  simp [bitsToNat]

/-- The `m` most significant bits of a word, read as a number, are the word without its lower bits. -/
theorem bitsToNat_topBits {n : Nat} (w : BitVec n) {m : Nat} (hm : m ≤ n) :
    bitsToNat ((List.range m).map (fun k => w.getLsbD (n - 1 - k))) = w.toNat / 2 ^ (n - m) := by
  induction m with
  | zero => simp [bitsToNat, Nat.div_eq_of_lt w.isLt]
  | succ m ih =>
    have hsplit : w.toNat / 2 ^ (n - m) = w.toNat / 2 ^ (n - (m + 1)) / 2 := by
      rw [Nat.div_div_eq_div_mul, ← Nat.pow_succ]
      congr 2
      omega
    have hbit : (w.getLsbD (n - 1 - m)).toNat = w.toNat / 2 ^ (n - (m + 1)) % 2 := by
      rw [show n - 1 - m = n - (m + 1) by omega, BitVec.getLsbD, Nat.toNat_testBit]
    rw [List.range_succ, List.map_append, List.map_singleton, bitsToNat_append_one, ih (by omega), hsplit, hbit]
    omega

theorem bitsToNat_frameBits (f : FrameWord) : bitsToNat (frameBits f) = f.toNat := by
  exact (bitsToNat_topBits f (m := 16) le_rfl).trans (Nat.div_one _)

/-- The upper eleven bits of a frame are its value. -/
theorem toNat_encodeFrame_div (v : Value) : (encodeFrame v).toNat / 32 = v.toNat := by
  have hf := (encodeFrame v).isLt
  have hv := congrArg BitVec.toNat (frameValue_encodeFrame v)
  rw [frameValue, BitVec.extractLsb'_toNat, Nat.shiftRight_eq_div_pow] at hv
  omega

/-- Settles O13: the receiver reads the bits that were sent, which are the frame's, most significant first. -/
theorem wireReadsBackTheFrame : Obligations.WireReadsBackTheFrame := by
  unfold Obligations.WireReadsBackTheFrame
  intro p g v
  rw [readBits_frameEvents, bitsToNat_frameBits]
  exact ⟨frameBits_length _, rfl, toNat_encodeFrame_div v⟩

/-! #### The burst (R171, R173) -/

/-- Settles O15: the closed form of repeated sends, at the policy's own count. -/
theorem burstFollowsItsPolicy : Obligations.BurstFollowsItsPolicy := by
  unfold Obligations.BurstFollowsItsPolicy
  intro s c cmd g n hn
  rw [State.sendCommand_wire, burstEvents_eq_of_repeats hn]

theorem traceDuration_repeat (one : List WireEvent) (n : Nat) :
    traceDuration (List.replicate n one).flatten = n * traceDuration one := by
  induction n with
  | zero => simp [traceDuration]
  | succ n ih => rw [List.replicate_succ, List.flatten_cons, traceDuration_append, ih, Nat.succ_mul, Nat.add_comm]

/-- Ten frames of 66 events and nine pauses. -/
theorem length_specBurst (p : Pin) (g : Grade) (f : FrameWord) : (specBurst p g f).length = 669 := by
  simp [specBurst]

theorem traceDuration_specBurst (p : Pin) (g : Grade) (f : FrameWord) :
    traceDuration (specBurst p g f) = 10 * 16 * (timing g).period + 9 * 1000000 := by
  have hpause : traceDuration [.wait 1000000] = 1000000 := rfl
  rw [specBurst, traceDuration_append, traceDuration_repeat, traceDuration_append, traceDuration_frameEvents, hpause]
  omega

/-- The events before pause `k`: `k` sends with their pauses, and one send more. -/
def beforePause (p : Pin) (g : Grade) (f : FrameWord) (k : Nat) : List WireEvent :=
  (List.replicate k (frameEvents p (timing g) f ++ [.wait 1000000])).flatten ++ frameEvents p (timing g) f

theorem length_beforePause (p : Pin) (g : Grade) (f : FrameWord) (k : Nat) :
    (beforePause p g f k).length = 66 + 67 * k := by
  simp [beforePause]
  omega

/-- The burst goes on after each of its nine pauses. -/
theorem specBurst_eq_beforePause (p : Pin) (g : Grade) (f : FrameWord) {k : Nat} (hk : k < 9) :
    ∃ after, specBurst p g f = beforePause p g f k ++ .wait 1000000 :: after := by
  refine ⟨beforePause p g f (8 - k), ?_⟩
  rw [specBurst, beforePause, beforePause, show 9 = k + (8 - k + 1) by omega, List.replicate_add, List.replicate_succ]
  simp

/-- A stretch of whole frames ends with the pin LOW (R156). -/
theorem endsLow_beforePause (p : Pin) (g : Grade) (f : FrameWord) (k : Nat) : EndsLow p (beforePause p g f k) := by
  induction k with
  | zero => exact endsLow_frame p _ f
  | succ k ih =>
    rw [beforePause, List.replicate_succ, List.flatten_cons, List.append_assoc]
    exact ((endsLow_frame p _ f).silent_right (.wait 1000000) (fun _ => rfl)).append ih

/-- Settles O17: the sums over ten frames and nine pauses; what stands before a pause is whole frames, which end LOW. -/
theorem burstLengthAndDuration : Obligations.BurstLengthAndDuration := by
  unfold Obligations.BurstLengthAndDuration
  intro s c g hwf _
  refine ⟨specBurst s.esc.pin g (encodeFrame (Config.commandValue c)), ?_, length_specBurst .., traceDuration_specBurst ..,
    ?_, fun k hk => ?_⟩
  · rw [State.sendCommand_wire, burstEvents_parameters]
  · rw [traceDuration_specBurst]
    cases g <;> rfl
  · obtain ⟨after, hafter⟩ := specBurst_eq_beforePause s.esc.pin g (encodeFrame (Config.commandValue c)) hk
    refine ⟨_, after, hafter, length_beforePause .., ?_⟩
    rw [State.emit_shadow, (endsLow_beforePause s.esc.pin g _ k s.shadow hwf).1]

end Sys2Proof.Machine
end

section
/-! ### The store after several saves -/

namespace Sys2Proof.Machine

/-- Saves made one after the other (20_memory.md R68, R69). -/
def State.saveAll (s : State) (saves : List (NvKey × NvValue)) : State :=
  saves.foldl (fun s save => s.nvSave save.1 save.2) s

@[simp] theorem State.saveAll_nil (s : State) : s.saveAll [] = s := rfl

theorem State.saveAll_cons (s : State) (save : NvKey × NvValue) (saves : List (NvKey × NvValue)) :
    s.saveAll (save :: saves) = (s.nvSave save.1 save.2).saveAll saves := rfl

theorem State.saveAll_append (s : State) (a b : List (NvKey × NvValue)) : s.saveAll (a ++ b) = (s.saveAll a).saveAll b :=
  List.foldl_append

/-- What a save does not write, several saves do not write. -/
theorem State.saveAll_keeps {α : Type} {field : State → α} (hfield : ∀ s k v, field (s.nvSave k v) = field s) (s : State)
    (saves : List (NvKey × NvValue)) : field (s.saveAll saves) = field s := by
  induction saves generalizing s with
  | nil => rfl
  | cons save saves ih => rw [State.saveAll_cons, ih, hfield]

section SaveAll
variable (s : State) (saves : List (NvKey × NvValue))

@[simp] theorem State.saveAll_esc : (s.saveAll saves).esc = s.esc := State.saveAll_keeps State.nvSave_esc s saves
@[simp] theorem State.saveAll_shadow : (s.saveAll saves).shadow = s.shadow := State.saveAll_keeps State.nvSave_shadow s saves
@[simp] theorem State.saveAll_wire : (s.saveAll saves).wire = s.wire := State.saveAll_keeps State.nvSave_wire s saves
@[simp] theorem State.saveAll_inputs : (s.saveAll saves).inputs = s.inputs := State.saveAll_keeps State.nvSave_inputs s saves

/-- One answer of the store is used for each save. -/
theorem State.saveAll_answer (j : Nat) : (s.saveAll saves).answer j = s.answer (j + saves.length) := by
  induction saves generalizing s with
  | nil => rfl
  | cons save saves ih => rw [State.saveAll_cons, ih, State.nvSave_answer, List.length_cons, Nat.add_assoc]

theorem State.saveAll_saveAnswers : (s.saveAll saves).saveAnswers = s.saveAnswers.drop saves.length := by
  induction saves generalizing s with
  | nil => rfl
  | cons save saves ih => rw [State.saveAll_cons, ih, State.nvSave_saveAnswers, List.drop_tail, List.length_cons]

theorem State.saveAll_drawCount :
    (s.saveAll saves).drawCount = s.drawCount + (saves.length - s.saveAnswers.length) := by
  induction saves generalizing s with
  | nil => simp
  | cons save saves ih =>
    rw [State.saveAll_cons, ih, State.nvSave_drawCount, State.nvSave_saveAnswers, List.length_tail, List.length_cons]
    omega
end SaveAll

/-- The two states hold the same store and the same draws to come. -/
def State.SameStore (s t : State) : Prop :=
  s.nv = t.nv ∧ s.saveAnswers = t.saveAnswers ∧ s.drawCount = t.drawCount

/-- What a save does to the store depends on the store and its draws alone. -/
theorem State.SameStore.nvSave {s t : State} (h : s.SameStore t) (k : NvKey) (v : NvValue) :
    (s.nvSave k v).SameStore (t.nvSave k v) := by
  obtain ⟨hnv, hanswers, hdraws⟩ := h
  refine ⟨?_, ?_, ?_⟩
  · rw [State.nvSave_nv, State.nvSave_nv, State.nextSaveKept_eq, State.nextSaveKept_eq,
      State.answer_congr hanswers hdraws, hnv]
  · rw [State.nvSave_saveAnswers, State.nvSave_saveAnswers, hanswers]
  · rw [State.nvSave_drawCount, State.nvSave_drawCount, hanswers, hdraws]

theorem State.SameStore.saveAll {s t : State} (h : s.SameStore t) (saves : List (NvKey × NvValue)) :
    (s.saveAll saves).SameStore (t.saveAll saves) := by
  induction saves generalizing s t with
  | nil => exact h
  | cons save saves ih => exact ih (h.nvSave save.1 save.2)

/-- A save and what is sent on the wire do not meet. -/
theorem State.nvSave_emit (s : State) (k : NvKey) (v : NvValue) (es : List WireEvent) :
    (s.nvSave k v).emit es = (s.emit es).nvSave k v := by
  unfold State.nvSave State.drawn State.nextSaveKept State.emit
  cases s.saveAnswers <;> rfl

end Sys2Proof.Machine
end

section
/-! ### The effect of an instruction: what every instruction but reset does is read off `S` alone -/

namespace Sys2Proof.Machine

/-- What an instruction writes: the new `S`, the saves it makes, the events it appends, all in order, and the code it answers
the host with, if it answers. -/
structure Effect where
  esc : EscState
  saves : List (NvKey × NvValue)
  events : List WireEvent
  code : Option ResultCode

/-- The answer of a step, or the empty response port. -/
def State.answerWith (s : State) : Option ResultCode → State
  | some c => s.respond c
  | none => s.silent

/-- The state an effect leaves. -/
def State.perform (s : State) (f : Effect) : State :=
  (State.saveAll (State.emit { s with esc := f.esc } f.events) f.saves).answerWith f.code

section Perform
variable (s : State) (f : Effect)

@[simp] theorem State.perform_esc : (s.perform f).esc = f.esc := by
  unfold State.perform; cases f.code <;> exact State.saveAll_esc _ _
@[simp] theorem State.perform_shadow : (s.perform f).shadow = f.events.foldl PinSpace.record s.shadow := by
  unfold State.perform; cases f.code <;> exact State.saveAll_shadow _ _
@[simp] theorem State.perform_wire : (s.perform f).wire = s.wire ++ f.events := by
  unfold State.perform; cases f.code <;> exact State.saveAll_wire _ _
@[simp] theorem State.perform_inputs : (s.perform f).inputs = s.inputs := by
  unfold State.perform; cases f.code <;> exact State.saveAll_inputs _ _
@[simp] theorem State.perform_response : (s.perform f).response = f.code.map (fun c => rspWord c f.esc) := by
  unfold State.perform
  cases f.code with
  | none => rfl
  | some c => simp [State.answerWith]

/-- The store after an effect is the store after its saves. -/
theorem State.perform_sameStore : (s.perform f).SameStore (s.saveAll f.saves) := by
  have h : (State.emit { s with esc := f.esc } f.events).SameStore s := ⟨rfl, rfl, rfl⟩
  unfold State.perform
  cases f.code <;> exact h.saveAll f.saves
end Perform

/-- Nothing but `S` written, and an answer or none. -/
def Effect.stores (e : EscState) (code : Option ResultCode) : Effect :=
  { esc := e, saves := [], events := [], code := code }

theorem State.perform_stores (s : State) (e : EscState) (code : Option ResultCode) :
    s.perform (.stores e code) = State.answerWith { s with esc := e } code := by
  rw [State.perform, Effect.stores, State.saveAll_nil, State.emit_nil]

/-! #### The parts of configure -/

/-- `S` after an accepted `configure` (44_esc_controller.md R184). -/
def EscState.configured (e : EscState) (newPin : Option Pin) (newProtocol : Option Protocol) : EscState :=
  let protocol := newProtocol.getD e.protocol
  { pin := newPin.getD e.pin
    protocol := protocol
    armed := e.armed
    throttle := if protocol = e.protocol then e.throttle else idleThrottle protocol
    direction := if protocol = e.protocol then e.direction else if protocol = .pwm then .forward else e.direction }

/-- The events of a pin change (R184). -/
def pinChangeEvents (old new : Pin) : List WireEvent :=
  if new = old then [] else [.mode old .input, .mode new .output, .level new .low]

/-- The saves that go with a change of `S`: one for each persisted field that changed, in the order pin, protocol, direction
(R184, D13). -/
def EscState.changedSaves (old new : EscState) : List (NvKey × NvValue) :=
  (if new.pin = old.pin then [] else [(.pin, .int new.pin.val)]) ++
    (if new.protocol = old.protocol then [] else [(.protocol, .str (protocolName new.protocol))]) ++
    (if new.direction = old.direction then [] else [(.direction, .str (directionName new.direction))])

theorem State.saveChanged_eq (s : State) (old : EscState) : s.saveChanged old = s.saveAll (old.changedSaves s.esc) := by
  unfold State.saveChanged EscState.changedSaves
  dsimp only
  split_ifs <;> simp [State.saveAll_cons]

/-- An accepted `configure`. -/
def configureEffect (newPin : Option Pin) (newProtocol : Option Protocol) (e : EscState) : Effect where
  esc := e.configured newPin newProtocol
  saves := e.changedSaves (e.configured newPin newProtocol)
  events := pinChangeEvents e.pin (newPin.getD e.pin)
  code := some .ok

theorem State.movePin_eq (s : State) (newPin : Option Pin) :
    s.movePin newPin = State.emit { s with esc := { s.esc with pin := newPin.getD s.esc.pin } }
      (pinChangeEvents s.esc.pin (newPin.getD s.esc.pin)) := by
  unfold State.movePin pinChangeEvents
  cases newPin with
  | none => simp
  | some p =>
    dsimp only [Option.getD_some]
    split_ifs with h
    · simp [h]
    · simp [State.gpioMode, State.gpioWrite, State.emit]

theorem State.changeProtocol_movePin (s : State) (newPin : Option Pin) (newProtocol : Option Protocol) :
    (s.movePin newPin).changeProtocol newProtocol = State.emit { s with esc := s.esc.configured newPin newProtocol }
      (pinChangeEvents s.esc.pin (newPin.getD s.esc.pin)) := by
  rw [State.movePin_eq]
  cases newProtocol with
  | none => simp [State.changeProtocol, EscState.configured]
  | some q =>
    dsimp only [State.changeProtocol, State.emit_esc]
    split_ifs with h
    · simp [EscState.configured, h]
    · simp [EscState.configured, h, State.emit]

theorem perform_configureEffect (s : State) (newPin : Option Pin) (newProtocol : Option Protocol) :
    (((s.movePin newPin).changeProtocol newProtocol).saveChanged s.esc).respond .ok =
      s.perform (configureEffect newPin newProtocol s.esc) := by
  rw [State.saveChanged_eq, State.changeProtocol_movePin]
  rfl

/-! #### The effects -/

/-- `configure` (R183, R184). -/
def configureAnswer (pin : Option Int) (protocol : Option ProtocolArg) (e : EscState) : Effect :=
  match validatePin pin, validateProtocol protocol with
  | .ok newPin, .ok newProtocol => configureEffect newPin newProtocol e
  | _, _ => .stores e (some .validationError)

/-- `disarm` (R190). -/
def disarmEffect (e : EscState) : Effect where
  esc := { e with armed := false, throttle := 0#11 }
  saves := []
  events := [.level e.pin .low]
  code := some .ok

/-- The `setDirection` that succeeds (R196). -/
def labelEffect (c : Parameters) (g : Grade) (d : Direction) (e : EscState) : Effect where
  esc := { e with direction := d }
  saves := [(.direction, .str (directionName d))]
  events := match directionCommand d with
    | none => []
    | some cmd => burstEvents c.retry e.pin (c.timing.row g) (encodeFrame (Config.commandValue cmd))
  code := some .ok

/-- `setDirection` (R196). -/
def setDirectionEffect (c : Parameters) (dir : DirectionArg) (e : EscState) : Effect :=
  match gradeOf e.protocol with
  | none => .stores e (some .capabilityError)
  | some g =>
    match dir with
    | .unrecognized _ => .stores e (some .validationError)
    | .known d => labelEffect c g d e

/-- The `brake` that succeeds (R198). -/
def brakedEffect (c : Parameters) (g : Grade) (e : EscState) : Effect where
  esc := { e with direction := .brake, throttle := 0#11 }
  saves := []
  events := burstEvents c.retry e.pin (c.timing.row g) (encodeFrame (Config.commandValue .motorStop))
  code := some .ok

/-- `brake` (R198). -/
def brakeEffect (c : Parameters) (e : EscState) : Effect :=
  match gradeOf e.protocol with
  | none => .stores e (some .capabilityError)
  | some g => if e.armed then brakedEffect c g e else .stores e (some .notArmedError)

/-- Events sent and nothing else written. -/
def Effect.sends (e : EscState) (es : List WireEvent) : Effect :=
  { esc := e, saves := [], events := es, code := none }

/-- `tick`, none where it stops (45_control_loop.md R210). -/
def tickEffect (c : Parameters) (e : EscState) : Option Effect :=
  if e.transmits then
    match gradeOf e.protocol with
    | some g => some (.sends e (frameEvents e.pin (c.timing.row g) (encodeFrame e.throttle)))
    | none => (pulseWidthOf e.throttle).map (fun w => .sends e (pwmEvents e.pin w))
  else some (.stores e none)

/-- The effect of every instruction but reset, none where it stops. Reset replaces the state and has no effect of this form:
its arm stands for nothing and is never used. -/
def effect (c : Parameters) (i : Instr) (e : EscState) : Option Effect :=
  match i with
  | .getStatus => some (.stores e (some .ok))
  | .configure pin protocol => some (configureAnswer pin protocol e)
  | .setThrottle value => some (.stores { e with throttle := clampThrottle e.protocol value } (some .ok))
  | .arm => some (.stores { e with armed := true, throttle := idleThrottle e.protocol } (some .ok))
  | .disarm => some (disarmEffect e)
  | .setDirection dir => some (setDirectionEffect c dir e)
  | .brake => some (brakeEffect c e)
  | .tick => tickEffect c e
  | .reset => some (.stores e none)
  | .frame v => if e.tickSends v then tickEffect c e else some (.stores e none)
  | .frameMotorStop => some (if e.brakeSends then brakeEffect c e else .stores e none)
  | .frameSpinDirectionNormal =>
    some (if e.directionSupported then setDirectionEffect c (.known .forward) e else .stores e none)
  | .frameCommand21 => some (if e.directionSupported then setDirectionEffect c (.known .reverse) e else .stores e none)

/-- The outcome of an effect: the state it leaves, or the stop of 42_signal_transmitter.md R152. -/
def State.outcome (s : State) : Option Effect → Host.Outcome State Fault Refusal
  | some f => .next (s.perform f)
  | none => .fault .pwmWidthOutOfRange

theorem execConfigure_eq_effect (pin : Option Int) (protocol : Option ProtocolArg) (s : State) :
    execConfigure pin protocol s = .next (s.perform (configureAnswer pin protocol s.esc)) := by
  unfold execConfigure configureAnswer
  cases hpin : validatePin pin with
  | error code => rw [((validatePin_error pin code).1 hpin).1, State.perform_stores]; rfl
  | ok newPin =>
    cases hprotocol : validateProtocol protocol with
    | error code => rw [((validateProtocol_error protocol code).1 hprotocol).1, State.perform_stores]; rfl
    | ok newProtocol => exact congrArg Host.Outcome.next (perform_configureEffect s newPin newProtocol)

theorem perform_labelEffect (c : Parameters) (g : Grade) (d : Direction) (s : State) :
    s.perform (labelEffect c g d s.esc) = ((State.nvSave { s with esc := { s.esc with direction := d } } .direction
      (.str (directionName d))).emit (labelEffect c g d s.esc).events).respond .ok := by
  rw [State.nvSave_emit]
  rfl

theorem setDirectionWith_eq_effect (c : Parameters) (dir : DirectionArg) (s : State) :
    setDirectionWith c dir s = .next (s.perform (setDirectionEffect c dir s.esc)) := by
  unfold setDirectionWith setDirectionEffect
  cases gradeOf s.esc.protocol with
  | none => rw [State.perform_stores]; rfl
  | some g =>
    cases dir with
    | unrecognized code => rw [State.perform_stores]; rfl
    | known d =>
      dsimp only
      rw [perform_labelEffect]
      cases d <;> simp [directionCommand, labelEffect, State.sendCommand]

theorem brakeWith_eq_effect (c : Parameters) (s : State) :
    brakeWith c s = .next (s.perform (brakeEffect c s.esc)) := by
  unfold brakeWith brakeEffect
  cases gradeOf s.esc.protocol with
  | none => rw [State.perform_stores]; rfl
  | some g =>
    dsimp only
    split_ifs
    · rfl
    · rw [State.perform_stores]; rfl

theorem tickWith_eq_effect (c : Parameters) (s : State) : tickWith c s = s.outcome (tickEffect c s.esc) := by
  unfold tickWith tickEffect
  split_ifs
  · cases gradeOf s.esc.protocol with
    | some g => rfl
    | none => cases pulseWidthOf s.esc.throttle <;> rfl
  · rw [State.outcome, State.perform_stores]; rfl

/-- Every instruction but reset does its effect. -/
theorem execWith_eq_effect (c : Parameters) {i : Instr} (hi : i ≠ .reset) (s : State) :
    execWith c i s = s.outcome (effect c i s.esc) := by
  cases i with
  | getStatus => rw [effect, State.outcome, State.perform_stores]; rfl
  | configure pin protocol => exact execConfigure_eq_effect pin protocol s
  | setThrottle value => rw [effect, State.outcome, State.perform_stores]; rfl
  | arm => rw [effect, State.outcome, State.perform_stores]; rfl
  | disarm => rfl
  | setDirection dir => exact setDirectionWith_eq_effect c dir s
  | brake => exact brakeWith_eq_effect c s
  | tick => exact tickWith_eq_effect c s
  | reset => exact absurd rfl hi
  | frame v =>
    rw [execWith, frameWith, effect]
    split_ifs
    · exact tickWith_eq_effect c s
    · rw [State.outcome, State.perform_stores]; rfl
  | frameMotorStop =>
    rw [execWith, frameMotorStopWith, effect]
    split_ifs
    · exact brakeWith_eq_effect c s
    · rw [State.outcome, State.perform_stores]; rfl
  | frameSpinDirectionNormal =>
    rw [execWith, frameDirectionWith, effect]
    split_ifs
    · exact setDirectionWith_eq_effect c _ s
    · rw [State.outcome, State.perform_stores]; rfl
  | frameCommand21 =>
    rw [execWith, frameDirectionWith, effect]
    split_ifs
    · exact setDirectionWith_eq_effect c _ s
    · rw [State.outcome, State.perform_stores]; rfl

/-- `exec` is the tunable model at the spec's own values. -/
theorem exec_eq_execWith (i : Instr) (s : State) : exec i s = execWith parameters i s := by
  cases i <;> rfl

theorem exec_eq_effect {i : Instr} (hi : i ≠ .reset) (s : State) : exec i s = s.outcome (effect parameters i s.esc) := by
  rw [exec_eq_execWith, execWith_eq_effect parameters hi]

end Sys2Proof.Machine
end

section
/-! ### Who reads what: the effect depends on nothing but `S`, and only its events on the parameters -/

namespace Sys2Proof.Machine

theorem State.SameStore.refl (s : State) : s.SameStore s := ⟨rfl, rfl, rfl⟩

/-- Two effects that save the same leave the same store and the same draws to come. -/
theorem State.SameStore.perform {s t : State} (h : s.SameStore t) {f f' : Effect} (hsaves : f.saves = f'.saves) :
    (s.perform f).SameStore (t.perform f') := by
  obtain ⟨hnv, hanswers, hdraws⟩ := s.perform_sameStore f
  obtain ⟨hnv', hanswers', hdraws'⟩ := t.perform_sameStore f'
  obtain ⟨gnv, ganswers, gdraws⟩ := h.saveAll f.saves
  rw [← hsaves] at hnv' hanswers' hdraws'
  exact ⟨hnv.trans (gnv.trans hnv'.symm), hanswers.trans (ganswers.trans hanswers'.symm),
    hdraws.trans (gdraws.trans hdraws'.symm)⟩

theorem State.outcome_eq_next {s t : State} {o : Option Effect} :
    s.outcome o = .next t ↔ ∃ f, o = some f ∧ t = s.perform f := by
  cases o <;> simp [State.outcome, eq_comm]

theorem State.outcome_eq_fault {s : State} {o : Option Effect} {r : Fault} :
    s.outcome o = .fault r ↔ o = none ∧ r = .pwmWidthOutOfRange := by
  cases o <;> simp [State.outcome, eq_comm]

theorem State.outcome_ne_refused (s : State) (o : Option Effect) (r : Refusal) : s.outcome o ≠ .refused r := by
  cases o <;> simp [State.outcome]

/-! #### The parameters (40_protocol_timing.md R133, U16, U17) -/

/-- An effect without the events it appends. -/
def Effect.mute (f : Effect) : Effect := { f with events := [] }

theorem mute_setDirectionEffect (c c' : Parameters) (dir : DirectionArg) (e : EscState) :
    (setDirectionEffect c dir e).mute = (setDirectionEffect c' dir e).mute := by
  unfold setDirectionEffect
  cases gradeOf e.protocol with
  | none => rfl
  | some g => cases dir <;> rfl

theorem mute_brakeEffect (c c' : Parameters) (e : EscState) : (brakeEffect c e).mute = (brakeEffect c' e).mute := by
  unfold brakeEffect
  cases gradeOf e.protocol with
  | none => rfl
  | some g => cases e.armed <;> rfl

theorem mute_tickEffect (c c' : Parameters) (e : EscState) :
    (tickEffect c e).map Effect.mute = (tickEffect c' e).map Effect.mute := by
  unfold tickEffect
  split_ifs
  · cases gradeOf e.protocol <;> rfl
  · rfl

/-- The parameters reach only the events. -/
theorem mute_effect (c c' : Parameters) (i : Instr) (e : EscState) :
    (effect c i e).map Effect.mute = (effect c' i e).map Effect.mute := by
  cases i with
  | setDirection dir => exact congrArg some (mute_setDirectionEffect c c' dir e)
  | brake => exact congrArg some (mute_brakeEffect c c' e)
  | tick => exact mute_tickEffect c c' e
  | frame v =>
    simp only [effect]
    split_ifs
    · exact mute_tickEffect c c' e
    · rfl
  | frameMotorStop =>
    simp only [effect]
    split_ifs
    · exact congrArg some (mute_brakeEffect c c' e)
    · rfl
  | frameSpinDirectionNormal =>
    simp only [effect]
    split_ifs
    · exact congrArg some (mute_setDirectionEffect c c' _ e)
    · rfl
  | frameCommand21 =>
    simp only [effect]
    split_ifs
    · exact congrArg some (mute_setDirectionEffect c c' _ e)
    · rfl
  | _ => rfl

/-- Settles O16: under two parameters the effects differ in their events only, and reset has no parameters. -/
theorem parametersReachOnlyTheWire : Obligations.ParametersReachOnlyTheWire := by
  unfold Obligations.ParametersReachOnlyTheWire
  refine ⟨exec_eq_execWith, fun c c' i s => ?_⟩
  by_cases hi : i = .reset
  · subst hi
    exact ⟨fun t h => ⟨t, h, rfl, rfl, rfl, rfl, rfl, rfl⟩, fun _ h => h⟩
  rw [execWith_eq_effect c hi, execWith_eq_effect c' hi]
  have hmute := mute_effect c c' i s.esc
  refine ⟨fun t h => ?_, fun r h => ?_⟩
  · obtain ⟨f, hf, rfl⟩ := State.outcome_eq_next.1 h
    rw [hf] at hmute
    obtain ⟨f', hf', hff'⟩ := Option.map_eq_some_iff.1 hmute.symm
    obtain ⟨hesc, hsaves, -, hcode⟩ := Effect.mk.inj hff'
    obtain ⟨hnv, hanswers, hdraws⟩ := (State.SameStore.refl s).perform hsaves
    refine ⟨_, State.outcome_eq_next.2 ⟨f', hf', rfl⟩, ?_, hnv, ?_, ?_, hanswers, hdraws⟩
    · simpa using hesc
    · simp [hesc, hcode]
    · simp
  · obtain ⟨hnone, rfl⟩ := State.outcome_eq_fault.1 h
    rw [hnone] at hmute
    exact State.outcome_eq_fault.2 ⟨Option.map_eq_none_iff.1 hmute.symm, rfl⟩

/-! #### The trace and the pins (10_state.md R35, R36) -/

/-- Settles O52: the effect is read off `S`, so the same one is done in both states; reset reads the store alone. -/
theorem noRuleReadsTheTraceOrThePins : Obligations.NoRuleReadsTheTraceOrThePins := by
  unfold Obligations.NoRuleReadsTheTraceOrThePins
  intro i s t w g h
  by_cases hi : i = .reset
  · subst hi
    cases h
    exact ⟨_, rfl, rfl, rfl, rfl, rfl, rfl, rfl, fun hne => absurd rfl hne⟩
  rw [exec_eq_effect hi] at h
  obtain ⟨f, hf, rfl⟩ := State.outcome_eq_next.1 h
  have hstore : State.SameStore { s with wire := w, shadow := g } s := ⟨rfl, rfl, rfl⟩
  obtain ⟨hnv, hanswers, hdraws⟩ := hstore.perform (f := f) rfl
  refine ⟨_, (exec_eq_effect hi _).trans (State.outcome_eq_next.2 ⟨f, hf, rfl⟩), ?_, hnv, ?_, ?_, hanswers, hdraws,
    fun _ => ⟨f.events, ?_, ?_⟩⟩ <;> simp

/-! #### The direction label (10_state.md R25) -/

theorem events_configureAnswer (pin : Option Int) (protocol : Option ProtocolArg) (e : EscState) (d : Direction) :
    (configureAnswer pin protocol { e with direction := d }).events = (configureAnswer pin protocol e).events := by
  unfold configureAnswer
  cases validatePin pin with
  | error code => rfl
  | ok newPin => cases validateProtocol protocol <;> rfl

theorem events_setDirectionEffect (c : Parameters) (dir : DirectionArg) (e : EscState) (d : Direction) :
    (setDirectionEffect c dir { e with direction := d }).events = (setDirectionEffect c dir e).events := by
  unfold setDirectionEffect
  dsimp only
  cases gradeOf e.protocol with
  | none => rfl
  | some g => cases dir <;> rfl

theorem events_brakeEffect (c : Parameters) (e : EscState) (d : Direction) :
    (brakeEffect c { e with direction := d }).events = (brakeEffect c e).events := by
  unfold brakeEffect
  dsimp only
  cases gradeOf e.protocol with
  | none => rfl
  | some g => cases e.armed <;> rfl

theorem events_tickEffect (c : Parameters) (e : EscState) (d : Direction) :
    (tickEffect c { e with direction := d }).map Effect.events = (tickEffect c e).map Effect.events := by
  unfold tickEffect EscState.transmits
  dsimp only
  split_ifs
  · cases gradeOf e.protocol with
    | some g => rfl
    | none => cases pulseWidthOf e.throttle <;> rfl
  · rfl

/-- The direction label reaches no event. -/
theorem events_effect (c : Parameters) (i : Instr) (e : EscState) (d : Direction) :
    (effect c i { e with direction := d }).map Effect.events = (effect c i e).map Effect.events := by
  cases i with
  | configure pin protocol => exact congrArg some (events_configureAnswer pin protocol e d)
  | setDirection dir => exact congrArg some (events_setDirectionEffect c dir e d)
  | brake => exact congrArg some (events_brakeEffect c e d)
  | tick => exact events_tickEffect c e d
  | frame v =>
    have hguard : EscState.tickSends { e with direction := d } v = e.tickSends v := rfl
    simp only [effect, hguard]
    split_ifs
    · exact events_tickEffect c e d
    · rfl
  | frameMotorStop =>
    have hguard : EscState.brakeSends { e with direction := d } = e.brakeSends := rfl
    simp only [effect, hguard]
    split_ifs
    · exact congrArg some (events_brakeEffect c e d)
    · rfl
  | frameSpinDirectionNormal =>
    have hguard : EscState.directionSupported { e with direction := d } = e.directionSupported := rfl
    simp only [effect, hguard]
    split_ifs
    · exact congrArg some (events_setDirectionEffect c _ e d)
    · rfl
  | frameCommand21 =>
    have hguard : EscState.directionSupported { e with direction := d } = e.directionSupported := rfl
    simp only [effect, hguard]
    split_ifs
    · exact congrArg some (events_setDirectionEffect c _ e d)
    · rfl
  | _ => rfl

/-- Settles O53: the two effects have the same events, and these alone make the trace and the pins. -/
theorem directionLabelIsNeverTransmitted : Obligations.DirectionLabelIsNeverTransmitted := by
  unfold Obligations.DirectionLabelIsNeverTransmitted
  intro i s t d h
  by_cases hi : i = .reset
  · subst hi
    cases h
    exact ⟨_, rfl, rfl, rfl⟩
  rw [exec_eq_effect hi] at h
  obtain ⟨f, hf, rfl⟩ := State.outcome_eq_next.1 h
  have hevents := events_effect parameters i s.esc d
  rw [hf] at hevents
  obtain ⟨f', hf', hff'⟩ := Option.map_eq_some_iff.1 hevents
  refine ⟨_, (exec_eq_effect hi _).trans (State.outcome_eq_next.2 ⟨f', hf', rfl⟩), ?_, ?_⟩ <;> simp [hff']

/-! #### Where a meaning stops (42_signal_transmitter.md R152) -/

theorem tickEffect_eq_none (c : Parameters) (e : EscState) : tickEffect c e = none ↔
    e.armed = true ∧ e.protocol = .pwm ∧ e.throttle ≠ 0#11 ∧ (e.throttle.toNat < 1000 ∨ 2000 < e.throttle.toNat) := by
  unfold tickEffect
  split_ifs with h
  · obtain ⟨ha, h0⟩ := (EscState.transmits_iff e).1 h
    cases hg : gradeOf e.protocol with
    | some g => simp [ne_pwm_of_gradeOf hg]
    | none => simp [(gradeOf_eq_none _).1 hg, ha, h0, pulseWidthOf_none]
  · rw [EscState.transmits_iff] at h
    simp only [false_iff]
    exact fun ⟨ha, _, h0, _⟩ => h ⟨ha, h0⟩

/-- A FRAME stands for a tick under a DShot grade, which does not stop. -/
theorem effect_eq_none (c : Parameters) (i : Instr) (e : EscState) : effect c i e = none ↔
    i = .tick ∧ e.armed = true ∧ e.protocol = .pwm ∧ e.throttle ≠ 0#11 ∧
      (e.throttle.toNat < 1000 ∨ 2000 < e.throttle.toNat) := by
  cases i with
  | tick => simp [effect, tickEffect_eq_none]
  | frame v =>
    simp only [effect, reduceCtorEq, false_and, iff_false]
    split_ifs with h
    · rw [tickEffect_eq_none]
      rintro ⟨-, hp, -⟩
      simp [EscState.tickSends, EscState.directionSupported, hp] at h
    · exact nofun
  | _ => simp [effect]

/-- Settles O43: an effect is an answer, a missing one is the stop of `tick`, and reset always answers. -/
theorem onlyAnOutOfRangePulseStops : Obligations.OnlyAnOutOfRangePulseStops := by
  unfold Obligations.OnlyAnOutOfRangePulseStops
  intro i s
  by_cases hi : i = .reset
  · subst hi
    exact ⟨fun _ => nofun, fun r => ⟨nofun, fun ⟨_, hi, _⟩ => nomatch hi⟩⟩
  rw [exec_eq_effect hi]
  refine ⟨s.outcome_ne_refused _, fun r => ?_⟩
  rw [State.outcome_eq_fault, effect_eq_none, and_comm]

end Sys2Proof.Machine
end

section
/-! ### Proofs of 70_reset_and_hazards.md: reset -/

namespace Sys2Proof.Machine

/-- The events of a reset: the pin taken as an output at LOW (R262). -/
def bootEvents (p : Pin) : List WireEvent :=
  [.mode p .output, .level p .low]

/-- The state after a reset of `s` (R260, R262, R264). -/
def State.rebooted (s : State) : State :=
  { s with
    esc := bootState s.nv
    wire := bootEvents (loadPin s.nv)
    shadow := PinSpace.replay (bootEvents (loadPin s.nv))
    response := none }

theorem exec_reset (s : State) : exec .reset s = .next s.rebooted := rfl

/-- Reset leaves the pin in use an output at LOW, and every other one unknown (R40, R262). -/
theorem read_replay_bootEvents (p q : Pin) :
    (PinSpace.replay (bootEvents p)).read q = if p = q then ⟨.output, .low⟩ else unknownCell := by
  have hwf : (PinSpace.record [] (.mode p .output)).wf = true := PinSpace.record_wf [] _ rfl
  change (PinSpace.record (PinSpace.record [] (.mode p .output)) (.level p .low)).read q = _
  rw [PinSpace.read_record_level _ _ _ _ hwf, PinSpace.read_record_mode _ _ _ _ rfl, PinSpace.read_record_mode _ _ _ _ rfl,
    if_pos (rfl : p = p)]
  split_ifs <;> rfl

/-! #### What reset loads (R260, R261) -/

theorem loadPin_of_stored {nv : NvStore} {p : Pin} (h : nv.load .pin = some (.int p.val)) : loadPin nv = p := by
  rw [loadPin, h]
  simp [(pinOfInt_eq_some _ p).2 rfl]

theorem loadPin_default {nv : NvStore} (h : ∀ p : Pin, nv.load .pin ≠ some (.int p.val)) : loadPin nv = 5 := by
  unfold loadPin
  split
  · next v hv =>
    cases hp : pinOfInt v with
    | none => rfl
    | some p => exact absurd (hv.trans (by rw [(pinOfInt_eq_some v p).1 hp])) (h p)
  · rfl
  · rfl

theorem loadProtocol_eq (nv : NvStore) : loadProtocol nv =
    if nv.load .protocol = some (.str "DSHOT150") then .dshot150
    else if nv.load .protocol = some (.str "DSHOT300") then .dshot300
    else if nv.load .protocol = some (.str "DSHOT600") then .dshot600 else .pwm := by
  unfold loadProtocol
  rcases nv.load .protocol with _ | v | n
  · rfl
  · rfl
  · by_cases hn : n = "PWM"
    · subst hn; decide
    · simp only [protocolOfName, hn, if_false, Option.some.injEq, NvValue.str.injEq]
      split_ifs <;> rfl

theorem loadDirection_eq (nv : NvStore) : loadDirection nv =
    if nv.load .direction = some (.str "REVERSE") then .reverse
    else if nv.load .direction = some (.str "BRAKE") then .brake else .forward := by
  unfold loadDirection
  rcases nv.load .direction with _ | v | n
  · rfl
  · rfl
  · by_cases hn : n = "FORWARD"
    · subst hn; decide
    · simp only [directionOfName, hn, if_false, Option.some.injEq, NvValue.str.injEq]
      split_ifs <;> rfl

/-- Settles O35: key by key what reset loads, and the pin space its two events make of an empty one. -/
theorem resetRebuildsTheState : Obligations.ResetRebuildsTheState := by
  unfold Obligations.ResetRebuildsTheState
  refine ⟨fun k => by cases k <;> rfl, fun s => ⟨s.rebooted, exec_reset s, fun _ => loadPin_of_stored,
    loadPin_default, loadProtocol_eq s.nv, ?_, idleThrottle_eq _, rfl, EscState.directionSupported_eq _, rfl, ?_, ?_, rfl,
    rfl, rfl⟩⟩
  · rw [← loadDirection_eq]
    rfl
  · exact (read_replay_bootEvents _ _).trans (if_pos rfl)
  · exact fun q hq => (read_replay_bootEvents _ _).trans (if_neg (Ne.symm hq))

/-- Settles O36: `State.reset` is written out as what reset makes of three blank keys. -/
theorem resetOfABlankDeviceIsStateReset : Obligations.ResetOfABlankDeviceIsStateReset := by
  unfold Obligations.ResetOfABlankDeviceIsStateReset
  intro s hblank
  rw [exec_reset, State.rebooted, hblank]
  rfl

/-- The idle value of PWM is a pulse width (44_esc_controller.md R181). -/
theorem toNat_idleThrottle_pwm {p : Protocol} (hp : p = .pwm) :
    1000 ≤ (idleThrottle p).toNat ∧ (idleThrottle p).toNat ≤ 2000 := by
  subst hp; decide

theorem bootState_inv (nv : NvStore) : (bootState nv).Inv where
  pwmThrottle hp := .inr (toNat_idleThrottle_pwm hp)
  pwmForward hp := if_pos hp
  armedPwm ha := nomatch ha

theorem State.rebooted_inv (s : State) : s.rebooted.Inv where
  esc := bootState_inv s.nv
  replay := rfl
  canonical := PinSpace.replay_wf _
  pinLow := (read_replay_bootEvents _ _).trans (if_pos rfl)

/-- Settles O45: what reset leaves does not depend on the state before, and of the store only usable values are taken. -/
theorem anyResetEstablishesTheInvariants : Obligations.AnyResetEstablishesTheInvariants := by
  unfold Obligations.AnyResetEstablishesTheInvariants
  intro s t h
  cases h
  exact s.rebooted_inv

/-- Settles O44: `State.reset` is its own reset, and its keys are blank. -/
theorem resetMeetsTheInvariants : Obligations.ResetMeetsTheInvariants := by
  unfold Obligations.ResetMeetsTheInvariants
  refine ⟨anyResetEstablishesTheInvariants State.reset _ (resetOfABlankDeviceIsStateReset State.reset rfl), ?_⟩
  exact { pin := .inl rfl, protocol := .inl rfl, direction := .inl rfl }

end Sys2Proof.Machine
end

section
/-! ### What an instruction can do: the effects, case by case -/

namespace Sys2Proof.Machine

/-- The instructions that label the direction `d`: `setDirection`, and the FRAME row that stands for it (log 1). -/
def LabelsDirection (i : Instr) (d : Direction) : Prop :=
  i = .setDirection (.known d) ∨ (i = .frameSpinDirectionNormal ∧ d = .forward) ∨ (i = .frameCommand21 ∧ d = .reverse)

/-- The effects of the instructions other than reset, at the spec's own parameters. -/
inductive Does (e : EscState) : Instr → Effect → Prop where
  /-- An error, a status, an idle tick, or a FRAME that is not sent: nothing is written but the response port. -/
  | report {i : Instr} (code : Option ResultCode) (harm : i ≠ .arm) (hdisarm : i ≠ .disarm) : Does e i (.stores e code)
  | configure (newPin : Option Pin) (newProtocol : Option Protocol) :
      Does e (.configure (newPin.map (fun p => (p.val : Int))) (newProtocol.map .known))
        (configureEffect newPin newProtocol e)
  | setThrottle (v : Int) :
      Does e (.setThrottle v) (.stores { e with throttle := clampThrottle e.protocol v } (some .ok))
  | arm : Does e .arm (.stores { e with armed := true, throttle := idleThrottle e.protocol } (some .ok))
  | disarm : Does e .disarm (disarmEffect e)
  | label {i : Instr} {g : Grade} {d : Direction} (hg : gradeOf e.protocol = some g) (hi : LabelsDirection i d) :
      Does e i (labelEffect parameters g d e)
  | brake {i : Instr} {g : Grade} (hg : gradeOf e.protocol = some g) (ha : e.armed = true)
      (hi : i = .brake ∨ i = .frameMotorStop) : Does e i (brakedEffect parameters g e)
  | transmit {i : Instr} (ha : e.armed = true) (h0 : e.throttle ≠ 0#11) (hi : i = .tick ∨ i = .frame e.throttle) :
      Does e i (.sends e e.tickEvents)

theorem does_configureAnswer (pin : Option Int) (protocol : Option ProtocolArg) (e : EscState) :
    Does e (.configure pin protocol) (configureAnswer pin protocol e) := by
  unfold configureAnswer
  split
  · next newPin newProtocol hpin hprotocol =>
    rw [(validatePin_ok pin newPin).1 hpin, (validateProtocol_ok protocol newProtocol).1 hprotocol]
    exact .configure newPin newProtocol
  · exact .report _ nofun nofun

theorem does_setDirectionEffect {i : Instr} {dir : DirectionArg} (e : EscState) (harm : i ≠ .arm) (hdisarm : i ≠ .disarm)
    (hi : ∀ d, dir = .known d → LabelsDirection i d) : Does e i (setDirectionEffect parameters dir e) := by
  unfold setDirectionEffect
  cases hg : gradeOf e.protocol with
  | none => exact .report _ harm hdisarm
  | some g =>
    cases dir with
    | unrecognized code => exact .report _ harm hdisarm
    | known d => exact .label hg (hi d rfl)

theorem does_brakeEffect {i : Instr} (e : EscState) (hi : i = .brake ∨ i = .frameMotorStop) :
    Does e i (brakeEffect parameters e) := by
  have harm : i ≠ .arm := by rintro rfl; simp at hi
  have hdisarm : i ≠ .disarm := by rintro rfl; simp at hi
  unfold brakeEffect
  cases hg : gradeOf e.protocol with
  | none => exact .report _ harm hdisarm
  | some g =>
    dsimp only
    split_ifs with ha
    · exact .brake hg ha hi
    · exact .report _ harm hdisarm

theorem does_tickEffect {i : Instr} {e : EscState} {f : Effect} (h : tickEffect parameters e = some f)
    (harm : i ≠ .arm) (hdisarm : i ≠ .disarm) (hi : e.transmits = true → i = .tick ∨ i = .frame e.throttle) :
    Does e i f := by
  unfold tickEffect at h
  split_ifs at h with ht
  · obtain ⟨ha, h0⟩ := (EscState.transmits_iff e).1 ht
    have hf : f = .sends e e.tickEvents := by
      cases hg : gradeOf e.protocol with
      | some g =>
        simp only [hg, Option.some.injEq] at h
        rw [← h, EscState.tickEvents, hg]
        rfl
      | none =>
        simp only [hg, Option.map_eq_some_iff] at h
        obtain ⟨w, hw, rfl⟩ := h
        rw [EscState.tickEvents, hg, ← pulseWidthOf_some _ w hw]
        rfl
    rw [hf]
    exact .transmit ha h0 (hi ht)
  · obtain rfl := Option.some.inj h
    exact .report _ harm hdisarm

/-- Every effect is one of these. -/
theorem does_of_effect {i : Instr} {e : EscState} {f : Effect} (hreset : i ≠ .reset)
    (h : effect parameters i e = some f) : Does e i f := by
  cases i with
  | getStatus => cases h; exact .report _ nofun nofun
  | configure pin protocol => cases h; exact does_configureAnswer pin protocol e
  | setThrottle v => cases h; exact .setThrottle v
  | arm => cases h; exact .arm
  | disarm => cases h; exact .disarm
  | setDirection dir => cases h; exact does_setDirectionEffect e nofun nofun (fun d hd => .inl (congrArg _ hd))
  | brake => cases h; exact does_brakeEffect e (.inl rfl)
  | tick => exact does_tickEffect h nofun nofun (fun _ => .inl rfl)
  | reset => exact absurd rfl hreset
  | frame v =>
    simp only [effect] at h
    split_ifs at h with hsends
    · have hv : e.throttle = v := by simp_all [EscState.tickSends]
      exact does_tickEffect h nofun nofun (fun _ => .inr (congrArg _ hv.symm))
    · cases h; exact .report _ nofun nofun
  | frameMotorStop =>
    obtain rfl := Option.some.inj h
    split_ifs
    · exact does_brakeEffect e (.inr rfl)
    · exact .report _ nofun nofun
  | frameSpinDirectionNormal =>
    obtain rfl := Option.some.inj h
    split_ifs
    · exact does_setDirectionEffect e nofun nofun (fun d hd => .inr (.inl ⟨rfl, (DirectionArg.known.inj hd).symm⟩))
    · exact .report _ nofun nofun
  | frameCommand21 =>
    obtain rfl := Option.some.inj h
    split_ifs
    · exact does_setDirectionEffect e nofun nofun (fun d hd => .inr (.inr ⟨rfl, (DirectionArg.known.inj hd).symm⟩))
    · exact .report _ nofun nofun

/-- An instruction that answers is a reset, or does one of the effects. -/
theorem exec_next {i : Instr} {s t : State} (h : exec i s = .next t) :
    (i = .reset ∧ t = s.rebooted) ∨ (i ≠ .reset ∧ ∃ f, Does s.esc i f ∧ t = s.perform f) := by
  by_cases hi : i = .reset
  · subst hi
    cases h
    exact .inl ⟨rfl, rfl⟩
  · rw [exec_eq_effect hi] at h
    obtain ⟨f, hf, ht⟩ := State.outcome_eq_next.1 h
    exact .inr ⟨hi, f, does_of_effect hi hf, ht⟩

end Sys2Proof.Machine
end

section
/-! ### Proofs of 60_exceptions.md and 10_state.md: answers, modes, writers -/

namespace Sys2Proof.Machine

/-- The store after an effect is the store after its saves. -/
theorem State.perform_nv (s : State) (f : Effect) : (s.perform f).nv = (s.saveAll f.saves).nv :=
  (s.perform_sameStore f).1

/-- The reserved bits of a response word are zero (30_encoding.md R107). -/
theorem rspReserved_rspWord (c : ResultCode) (e : EscState) : rspReserved (rspWord c e) = 0#32 := by
  have hhigh : (rspWord c e).extractLsb' 27 3 = 0#3 := by
    simp (disch := omega) [rspWord, BitVec.extractLsb'_or, extractLsb'_fieldAt_other]
  have hlow : (rspWord c e).extractLsb' 12 4 = 0#4 := by
    simp (disch := omega) [rspWord, BitVec.extractLsb'_or, extractLsb'_fieldAt_other]
  calc rspReserved (rspWord c e)
      = rspWord c e &&& fieldAt 27 (BitVec.allOnes 3) ||| rspWord c e &&& fieldAt 12 (BitVec.allOnes 4) := by
        rw [← BitVec.and_or_distrib_left]; rfl
    _ = 0#32 := by rw [← fieldAt_extractLsb', ← fieldAt_extractLsb', hhigh, hlow]; rfl

/-- Settles O8: a response is written with the effect's own `S`; a CMD word's is that of O39; and each field reads back. -/
theorem responseWordFields : Obligations.ResponseWordFields := by
  unfold Obligations.ResponseWordFields
  refine ⟨fun i s t r h hr => ?_, fun s w rest hin => ?_, fun c e => ?_⟩
  · rcases exec_next h with ⟨-, rfl⟩ | ⟨-, f, -, rfl⟩
    · cases hr
    · obtain ⟨c, -, hc⟩ := Option.map_eq_some_iff.1 ((s.perform_response f).symm.trans hr)
      exact ⟨c, by rw [← hc, State.perform_esc]⟩
  · obtain ⟨t, ht, hr⟩ := step_cmd_answers hin
    exact ⟨t, _, ht, hr⟩
  · refine ⟨?_, rspReserved_rspWord c e, rspThrottle_rspWord c e, ?_, ?_, rspArmed_rspWord c e, ?_,
      toNat_rspPin_rspWord c e⟩
    · rw [rspCode_rspWord]; rfl
    · rw [rspDirectionSupported_rspWord, EscState.directionSupported_eq]
    · rw [rspDirection_rspWord]; rfl
    · rw [rspProtocol_rspWord]; rfl

/-- An error writes nothing (R225). -/
theorem Does.error {e : EscState} {i : Instr} {f : Effect} {c : ResultCode} (hd : Does e i f) (hc : f.code = some c)
    (hne : c ≠ .ok) : f = .stores e (some c) := by
  cases hd with
  | report code => obtain rfl : code = some c := hc; rfl
  | transmit => cases hc
  | _ => exact absurd (Option.some.inj hc).symm hne

/-- An instruction that answers with an error writes the response and nothing else. -/
theorem exec_error {i : Instr} {s t : State} {r : RspWord} (h : exec i s = .next t) (hr : t.response = some r)
    (hcode : rspCode r ≠ 0#2) : t = { s with response := some r } := by
  rcases exec_next h with ⟨-, rfl⟩ | ⟨-, f, hd, rfl⟩
  · cases hr
  · obtain ⟨c, hc, rfl⟩ := Option.map_eq_some_iff.1 ((s.perform_response f).symm.trans hr)
    have hne : c ≠ .ok := by
      rintro rfl
      exact hcode (rspCode_rspWord .ok f.esc)
    rw [hd.error hc hne, State.perform_stores]
    rfl

/-- Settles O40: an instruction that answers with an error only reports it, and so does a rejected word. -/
theorem anErrorChangesNothingElse : Obligations.AnErrorChangesNothingElse := by
  unfold Obligations.AnErrorChangesNothingElse
  intro s t w rest r hin hstep hr hcode
  cases hd : decode w with
  | ok i =>
    rw [step_of_decode_ok hin hd] at hstep
    exact exec_error hstep hr hcode
  | error reason =>
    rw [step_of_decode_error hin hd] at hstep
    rcases rejectWord_next reason _ t hstep with rfl | rfl
    · obtain rfl := Option.some.inj hr
      rfl
    · rw [← hr]

/-- Settles O41: `arm` and `disarm` write the mode, reset clears it, and the other effects keep it. -/
theorem modeTransitions : Obligations.ModeTransitions := by
  unfold Obligations.ModeTransitions
  intro i s t h
  rcases exec_next h with ⟨rfl, rfl⟩ | ⟨hreset, f, hd, rfl⟩
  · rfl
  rw [State.perform_esc]
  cases hd with
  | report code harm hdisarm =>
    split
    · exact absurd rfl harm
    · exact absurd rfl hdisarm
    · exact absurd rfl hreset
    · rfl
  | configure => rfl
  | setThrottle => rfl
  | arm => rfl
  | disarm => rfl
  | label _ hi => rcases hi with rfl | ⟨rfl, -⟩ | ⟨rfl, -⟩ <;> rfl
  | brake _ _ hi => rcases hi with rfl | rfl <;> rfl
  | transmit _ _ hi => rcases hi with rfl | rfl <;> rfl

/-- Settles O42: reset writes all but the store; each other effect writes its own fields. -/
theorem fieldsChangeOnlyUnderTheirWriters : Obligations.FieldsChangeOnlyUnderTheirWriters := by
  unfold Obligations.FieldsChangeOnlyUnderTheirWriters
  intro i s t h
  rcases exec_next h with ⟨rfl, rfl⟩ | ⟨-, f, hd, rfl⟩
  · simp [State.rebooted]
  simp only [State.perform_esc, State.perform_wire, State.perform_nv]
  cases hd with
  | report code => simp [Effect.stores]
  | configure newPin newProtocol => simp [configureEffect, EscState.configured]
  | setThrottle v => simp [Effect.stores]
  | arm => simp [Effect.stores]
  | disarm => simp [disarmEffect]
  | label _ hi => rcases hi with rfl | ⟨rfl, -⟩ | ⟨rfl, -⟩ <;> simp [labelEffect]
  | brake _ _ hi => rcases hi with rfl | rfl <;> simp [brakedEffect]
  | transmit _ _ hi => rcases hi with rfl | rfl <;> simp [Effect.sends]

/-! #### The trace only grows (10_state.md R35, R36) -/

theorem decode_eq_reset {w : PortWord} (h : decode w = .ok .reset) : w = .strobe 0b10#2 := by
  cases w with
  | cmd w =>
    obtain ⟨op, mask, row, -, -⟩ := decodeCmd_ok h
    generalize hi : Instr.reset = i at row
    cases row <;> cases hi
  | strobe w =>
    rcases decodeStrobe_ok h with ⟨-, hi⟩ | ⟨rfl, -⟩
    · cases hi
    · rfl
  | frame f =>
    obtain ⟨-, -, hi⟩ := decodeFrame_ok h
    unfold frameInstr at hi
    split_ifs at hi

/-- A step that answers: it waits or takes a word that is no instruction, or it resets, or it does an effect. -/
theorem step_next {s t : State} (h : step s = .next t) :
    t = s ∨
    ∃ w rest, s.inputs = w :: rest ∧
      ((t = { s with inputs := rest } ∨ t = State.respond { s with inputs := rest } .validationError) ∨
       ∃ i, decode w = .ok i ∧ exec i { s with inputs := rest } = .next t) := by
  rcases step_cases s with ⟨-, hw⟩ | ⟨w, rest, hin, ⟨i, hd, hw⟩ | ⟨r, hd, hw⟩⟩
  · rw [hw] at h
    cases h
    exact .inl rfl
  · rw [hw] at h
    exact .inr ⟨w, rest, hin, .inr ⟨i, hd, h⟩⟩
  · rw [hw] at h
    exact .inr ⟨w, rest, hin, .inl (rejectWord_next r _ t h).symm⟩

/-- Settles O49: an effect appends its events and records them; only STROBE 10 is a reset. -/
theorem theTraceOnlyGrows : Obligations.TheTraceOnlyGrows := by
  unfold Obligations.TheTraceOnlyGrows
  intro s t h hreset
  rcases step_next h with rfl | ⟨w, rest, hin, (rfl | rfl) | ⟨i, hd, hexec⟩⟩
  · exact ⟨[], (List.append_nil _).symm, rfl⟩
  · exact ⟨[], (List.append_nil _).symm, rfl⟩
  · exact ⟨[], (List.append_nil _).symm, rfl⟩
  · rcases exec_next hexec with ⟨rfl, -⟩ | ⟨-, f, -, rfl⟩
    · rw [decode_eq_reset hd] at hin
      exact absurd hin (hreset rest)
    · exact ⟨f.events, State.perform_wire _ f, State.perform_shadow _ f⟩

end Sys2Proof.Machine
end

section
/-! ### Proofs of 43_special_commands.md and 45_control_loop.md: what raises a pin -/

namespace Sys2Proof.Machine

theorem mem_bits_level {p q : Pin} {t : BitTiming} {bits : List Bool} {l : DriveLevel}
    (h : .level q l ∈ bits.flatMap (bitEvents p t)) : q = p := by
  obtain ⟨b, -, hb⟩ := List.mem_flatMap.1 h
  simp only [bitEvents, List.mem_cons, WireEvent.level.injEq, reduceCtorEq, List.not_mem_nil, or_false, false_or] at hb
  rcases hb with ⟨hq, -⟩ | ⟨hq, -⟩ <;> exact hq

/-- A frame drives its own pin. -/
theorem mem_frameEvents_level {p q : Pin} {t : BitTiming} {f : FrameWord} {l : DriveLevel}
    (h : .level q l ∈ frameEvents p t f) : q = p := by
  simp only [frameEvents, List.mem_append, List.mem_singleton, reduceCtorEq, false_or, or_false] at h
  exact mem_bits_level h

/-- A burst drives its own pin. -/
theorem mem_specBurst_level {p q : Pin} {g : Grade} {f : FrameWord} {l : DriveLevel}
    (h : .level q l ∈ specBurst p g f) : q = p := by
  simp only [specBurst, List.mem_append, List.mem_flatten, List.mem_replicate] at h
  rcases h with ⟨_, ⟨-, rfl⟩, hmem⟩ | h
  · simp only [List.mem_append, List.mem_singleton, reduceCtorEq, or_false] at hmem
    exact mem_frameEvents_level hmem
  · exact mem_frameEvents_level h

theorem not_high_mem_pinChangeEvents (old new p : Pin) : .level p .high ∉ pinChangeEvents old new := by
  unfold pinChangeEvents
  split_ifs <;> simp

theorem labelEffect_events (g : Grade) (d : Direction) (e : EscState) :
    (labelEffect parameters g d e).events = directionBurst e.pin g d := by
  unfold labelEffect directionBurst
  cases directionCommand d with
  | none => rfl
  | some cmd => exact burstEvents_parameters ..

theorem brakedEffect_events (g : Grade) (e : EscState) :
    (brakedEffect parameters g e).events = specBurst e.pin g 0x0000#16 := by
  unfold brakedEffect
  rw [burstEvents_parameters, encodeFrame_motorStop]

/-- What a label of the direction drives HIGH is the pin in use, in a burst, so the direction is not Brake. -/
theorem mem_directionBurst_level {p q : Pin} {g : Grade} {d : Direction} {l : DriveLevel}
    (h : .level q l ∈ directionBurst p g d) : q = p ∧ d ≠ .brake := by
  unfold directionBurst at h
  cases d with
  | brake => cases h
  | forward => exact ⟨mem_specBurst_level h, nofun⟩
  | reverse => exact ⟨mem_specBurst_level h, nofun⟩

/-- Settles O50: disarmed, only the burst of a direction label drives a pin HIGH. -/
theorem disarmedPinRisesOnlyForADirection : Obligations.DisarmedPinRisesOnlyForADirection := by
  unfold Obligations.DisarmedPinRisesOnlyForADirection
  intro i s t es hreset hdisarmed h hwire
  rcases exec_next h with ⟨rfl, -⟩ | ⟨-, f, hd, rfl⟩
  · exact absurd rfl hreset
  rw [State.perform_wire, List.append_right_inj] at hwire
  subst hwire
  cases hd with
  | report code => exact ⟨fun _ => rfl, nofun⟩
  | configure newPin newProtocol =>
    exact ⟨by simp, fun p hp => absurd hp (not_high_mem_pinChangeEvents _ _ p)⟩
  | setThrottle v => exact ⟨fun _ => rfl, nofun⟩
  | arm => exact ⟨fun _ => rfl, nofun⟩
  | disarm => exact ⟨by simp, by simp [disarmEffect]⟩
  | @label _ g d hg hi =>
    rw [labelEffect_events]
    refine ⟨?_, fun p hp => ?_⟩
    · rcases hi with rfl | ⟨rfl, -⟩ | ⟨rfl, -⟩ <;> simp
    · obtain ⟨hpin, hbrake⟩ := mem_directionBurst_level hp
      refine ⟨hpin, ne_pwm_of_gradeOf hg, ?_⟩
      rcases hi with rfl | ⟨rfl, -⟩ | ⟨rfl, -⟩
      · exact .inl ⟨d, hbrake, rfl⟩
      · exact .inr (.inl rfl)
      · exact .inr (.inr rfl)
  | brake _ ha => rw [hdisarmed] at ha; cases ha
  | transmit ha => rw [hdisarmed] at ha; cases ha

/-- Settles O51: an effect sends nothing that raises a pin, one throttle signal, or one burst. -/
theorem transmissionsHaveTwoSources : Obligations.TransmissionsHaveTwoSources := by
  unfold Obligations.TransmissionsHaveTwoSources
  intro i s t hreset h
  rcases exec_next h with ⟨rfl, -⟩ | ⟨-, f, hd, rfl⟩
  · exact absurd rfl hreset
  refine ⟨f.events, State.perform_wire s f, ?_⟩
  cases hd with
  | report code => exact .inl nofun
  | configure newPin newProtocol => exact .inl (not_high_mem_pinChangeEvents _ _)
  | setThrottle v => exact .inl nofun
  | arm => exact .inl nofun
  | disarm => exact .inl (by simp [disarmEffect])
  | @label _ g d hg hi =>
    rw [labelEffect_events]
    cases d with
    | brake => exact .inl nofun
    | forward =>
      refine .inr (.inr ⟨g, _, hg, directionBurst_forward _ g, .inr (.inl ⟨rfl, ?_⟩)⟩)
      rcases hi with rfl | ⟨rfl, -⟩ | ⟨-, hd⟩
      · exact .inl rfl
      · exact .inr rfl
      · cases hd
    | reverse =>
      refine .inr (.inr ⟨g, _, hg, directionBurst_reverse _ g, .inr (.inr ⟨rfl, ?_⟩)⟩)
      rcases hi with rfl | ⟨-, hd⟩ | ⟨rfl, -⟩
      · exact .inl rfl
      · cases hd
      · exact .inr rfl
  | brake hg ha hi => exact .inr (.inr ⟨_, _, hg, brakedEffect_events _ _, .inl ⟨rfl, ha, hi⟩⟩)
  | transmit ha h0 hi => exact .inr (.inl ⟨hi, ha, h0, rfl⟩)

end Sys2Proof.Machine
end

section
/-! ### Proofs of the invariants (10_state.md R27, 42_signal_transmitter.md R160, 70_reset_and_hazards.md R261) -/

namespace Sys2Proof.Machine

/-! #### `S` -/

/-- Under a DShot grade the invariants of `S` say nothing. -/
theorem EscState.inv_of_dshot {e : EscState} (h : e.protocol ≠ .pwm) : e.Inv where
  pwmThrottle hp := absurd hp h
  pwmForward hp := absurd hp h
  armedPwm _ hp := absurd hp h

theorem EscState.configured_inv {e : EscState} (h : e.Inv) (newPin : Option Pin) (newProtocol : Option Protocol) :
    (e.configured newPin newProtocol).Inv := by
  by_cases hp : newProtocol.getD e.protocol = e.protocol
  · exact {
      pwmThrottle := by simpa [EscState.configured, hp] using h.pwmThrottle
      pwmForward := by simpa [EscState.configured, hp] using h.pwmForward
      armedPwm := by simpa [EscState.configured, hp] using h.armedPwm }
  · have hidle : (e.configured newPin newProtocol).throttle = idleThrottle (newProtocol.getD e.protocol) := if_neg hp
    exact {
      pwmThrottle := fun hpwm => .inr (hidle ▸ toNat_idleThrottle_pwm hpwm)
      pwmForward := fun hpwm => (if_neg hp).trans (if_pos hpwm)
      armedPwm := fun _ hpwm => hidle ▸ toNat_idleThrottle_pwm hpwm }

/-- Every effect keeps the invariants of `S`. -/
theorem Does.esc_inv {e : EscState} {i : Instr} {f : Effect} (hd : Does e i f) (h : e.Inv) : f.esc.Inv := by
  cases hd with
  | report code => exact h
  | configure newPin newProtocol => exact EscState.configured_inv h newPin newProtocol
  | setThrottle v =>
    have hrange : e.protocol = .pwm →
        1000 ≤ (clampThrottle e.protocol v).toNat ∧ (clampThrottle e.protocol v).toNat ≤ 2000 :=
      fun hp => hp ▸ toNat_clampThrottle_pwm v
    exact { pwmThrottle := fun hp => .inr (hrange hp), pwmForward := h.pwmForward, armedPwm := fun _ hp => hrange hp }
  | arm =>
    exact {
      pwmThrottle := fun hp => .inr (toNat_idleThrottle_pwm hp)
      pwmForward := h.pwmForward
      armedPwm := fun _ hp => toNat_idleThrottle_pwm hp }
  | disarm => exact { pwmThrottle := fun _ => .inl rfl, pwmForward := h.pwmForward, armedPwm := nofun }
  | label hg => exact EscState.inv_of_dshot (ne_pwm_of_gradeOf hg)
  | brake hg => exact EscState.inv_of_dshot (ne_pwm_of_gradeOf hg)
  | transmit => exact h

/-! #### The pins -/

/-- A pin change releases the old pin and takes the new one as an output at LOW (44_esc_controller.md R184, R185). -/
theorem read_pinChangeEvents {old new : Pin} (hne : new ≠ old) {g : PinSpace} (hg : g.wf = true) (q : Pin) :
    ((pinChangeEvents old new).foldl PinSpace.record g).read q =
      if q = new then ⟨.output, .low⟩ else if q = old then ⟨.input, (g.read old).level⟩ else g.read q := by
  have hreleased := PinSpace.record_wf g (.mode old .input) hg
  have htaken := PinSpace.record_wf _ (.mode new .output) hreleased
  rw [pinChangeEvents, if_neg hne]
  simp only [List.foldl_cons, List.foldl_nil]
  rw [PinSpace.read_record_level _ _ _ _ htaken, PinSpace.read_record_mode _ _ _ _ hreleased,
    PinSpace.read_record_mode _ _ _ _ hreleased, PinSpace.read_record_mode _ _ _ _ hg,
    PinSpace.read_record_mode _ _ _ _ hg, if_pos (rfl : new = new)]
  simp only [eq_comm (a := new) (b := q), eq_comm (a := old) (b := q)]
  split_ifs <;> rfl

theorem tickEvents_endsLow (e : EscState) : EndsLow e.pin e.tickEvents := by
  unfold EscState.tickEvents
  cases gradeOf e.protocol with
  | some g => exact endsLow_frame _ _ _
  | none => exact endsLow_highLow _ _ _

/-- Every effect leaves the pin in use an output at LOW. -/
theorem Does.pinLow {e : EscState} {i : Instr} {f : Effect} (hd : Does e i f) {g : PinSpace} (hg : g.wf = true)
    (h : g.read e.pin = ⟨.output, .low⟩) : (f.events.foldl PinSpace.record g).read f.esc.pin = ⟨.output, .low⟩ := by
  have ofEndsLow : ∀ {es}, EndsLow e.pin es → (es.foldl PinSpace.record g).read e.pin = ⟨.output, .low⟩ :=
    fun hes => by rw [(hes g hg).1, h]
  cases hd with
  | report code => exact h
  | configure newPin newProtocol =>
    by_cases hp : newPin.getD e.pin = e.pin
    · simpa [configureEffect, EscState.configured, pinChangeEvents, hp] using h
    · exact (read_pinChangeEvents hp hg _).trans (if_pos rfl)
  | setThrottle v => exact h
  | arm => exact h
  | disarm => exact ofEndsLow (endsLow_level e.pin)
  | @label _ grade d =>
    rw [labelEffect_events]
    unfold directionBurst
    cases directionCommand d with
    | none => exact h
    | some cmd => exact ofEndsLow (endsLow_specBurst _ _ _)
  | brake =>
    rw [brakedEffect_events]
    exact ofEndsLow (endsLow_specBurst _ _ _)
  | transmit => exact ofEndsLow (tickEvents_endsLow e)

/-! #### The whole state -/

/-- Every effect keeps the invariants. -/
theorem Does.inv {s : State} {i : Instr} {f : Effect} (hd : Does s.esc i f) (h : s.Inv) : (s.perform f).Inv where
  esc := by rw [State.perform_esc]; exact hd.esc_inv h.esc
  replay := by rw [State.perform_shadow, State.perform_wire, PinSpace.replay_append, h.replay]
  canonical := by rw [State.perform_shadow]; exact PinSpace.foldl_record_wf _ _ h.canonical
  pinLow := by rw [State.perform_shadow, State.perform_esc]; exact hd.pinLow h.canonical h.pinLow

/-- The invariants do not speak of the ports. -/
theorem State.Inv.ports {s : State} (h : s.Inv) (inputs : List PortWord) (response : Option RspWord) :
    State.Inv { s with inputs := inputs, response := response } :=
  { esc := h.esc, replay := h.replay, canonical := h.canonical, pinLow := h.pinLow }

theorem exec_keeps_inv {i : Instr} {s t : State} (h : s.Inv) (hexec : exec i s = .next t) : t.Inv := by
  rcases exec_next hexec with ⟨-, rfl⟩ | ⟨-, f, hd, rfl⟩
  · exact s.rebooted_inv
  · exact hd.inv h

/-- Settles O46: waiting and a rejected word leave what the invariants speak of; an instruction keeps them. -/
theorem everyStepKeepsTheInvariants : Obligations.EveryStepKeepsTheInvariants := by
  unfold Obligations.EveryStepKeepsTheInvariants
  intro s t h hstep
  rcases step_next hstep with rfl | ⟨w, rest, -, (rfl | rfl) | ⟨i, -, hexec⟩⟩
  · exact h
  · exact h.ports rest s.response
  · exact h.ports rest _
  · exact exec_keeps_inv (h.ports rest s.response) hexec

/-- INV6 keeps the machine from the one stop there is. -/
theorem exec_progress {s : State} (h : s.Inv) (i : Instr) : ∃ t, exec i s = .next t := by
  cases hexec : exec i s with
  | next t => exact ⟨t, rfl⟩
  | refused r => exact absurd hexec ((onlyAnOutOfRangePulseStops i s).1 r)
  | fault r =>
    obtain ⟨-, -, ha, hp, -, hrange⟩ := ((onlyAnOutOfRangePulseStops i s).2 r).1 hexec
    have hwidth := h.esc.armedPwm ha hp
    omega

/-- A word that can be there is an instruction, a CMD word that is answered, or the empty strobe. -/
theorem decode_presentable {w : PortWord} (h : presentable w = true) :
    (∃ i, decode w = .ok i) ∨
      ∃ r, decode w = .error r ∧ (r = .reservedOpcode ∨ r = .mustBeZero ∨ r = .noEvent) := by
  cases w with
  | cmd w =>
    rcases decode_cmd_cases w with ⟨i, hd, -⟩ | ⟨r, hd, hr⟩
    · exact .inl ⟨i, hd⟩
    · exact .inr ⟨r, hd, hr.imp_right .inl⟩
  | strobe w =>
    have hall : ∀ w : BitVec 2, w = 0b01#2 ∨ w = 0b10#2 ∨ w = 0b00#2 ∨ w = 0b11#2 := by decide
    rcases hall w with rfl | rfl | rfl | rfl
    · exact .inl ⟨.tick, rfl⟩
    · exact .inl ⟨.reset, rfl⟩
    · exact .inr ⟨.noEvent, rfl, .inr (.inr rfl)⟩
    · cases h
  | frame f =>
    simp only [presentable, Bool.and_eq_true, Bool.not_eq_true', beq_iff_eq] at h
    obtain ⟨htelem, hcrc⟩ := h
    refine .inl ⟨frameInstr (frameValue f), ?_⟩
    rw [decode, decodeFrame, htelem, hcrc]
    simp

/-- Settles O48: the word is run, and INV6 keeps it from the one stop; or it is rejected with a next state. -/
theorem invariantStatesNeverStop : Obligations.InvariantStatesNeverStop := by
  unfold Obligations.InvariantStatesNeverStop
  intro s h hpresentable
  have hprogress : ∃ t, step s = .next t := by
    cases hin : s.inputs with
    | nil => exact ⟨s, step_of_no_inputs hin⟩
    | cons w rest =>
      rcases decode_presentable (hpresentable w rest hin) with ⟨i, hd⟩ | ⟨r, hd, hr⟩
      · rw [step_of_decode_ok hin hd]
        exact exec_progress (h.ports rest s.response) i
      · rw [step_of_decode_error hin hd]
        rcases hr with rfl | rfl | rfl <;> exact ⟨_, rfl⟩
  obtain ⟨t, ht⟩ := hprogress
  exact ⟨t, ht, everyStepKeepsTheInvariants s t h ht⟩

/-! #### The store -/

/-- A value that passes the test of its key at reset (70_reset_and_hazards.md R261). -/
def UsableValue (k : NvKey) (v : NvValue) : Prop :=
  match k with
  | .pin => ∃ p : Pin, v = .int p.val
  | .protocol => ∃ p : Protocol, v = .str (protocolName p)
  | .direction => ∃ d : Direction, v = .str (directionName d)

/-- A store is usable key by key. -/
theorem NvStore.usable_iff (nv : NvStore) :
    nv.Usable ↔ ∀ k, nv.load k = none ∨ ∃ v, UsableValue k v ∧ nv.load k = some v := by
  constructor
  · rintro ⟨hpin, hprotocol, hdirection⟩ k
    cases k with
    | pin => exact hpin.imp_right fun ⟨p, hp⟩ => ⟨_, ⟨p, rfl⟩, hp⟩
    | protocol => exact hprotocol.imp_right fun ⟨p, hp⟩ => ⟨_, ⟨p, rfl⟩, hp⟩
    | direction => exact hdirection.imp_right fun ⟨d, hd⟩ => ⟨_, ⟨d, rfl⟩, hd⟩
  · intro h
    exact {
      pin := (h .pin).imp_right fun ⟨_, ⟨p, rfl⟩, hp⟩ => ⟨p, hp⟩
      protocol := (h .protocol).imp_right fun ⟨_, ⟨p, rfl⟩, hp⟩ => ⟨p, hp⟩
      direction := (h .direction).imp_right fun ⟨_, ⟨d, rfl⟩, hd⟩ => ⟨d, hd⟩ }

theorem State.nvSave_usable {s : State} (h : s.nv.Usable) {k : NvKey} {v : NvValue} (hv : UsableValue k v) :
    (s.nvSave k v).nv.Usable := by
  rw [NvStore.usable_iff] at h ⊢
  intro j
  rw [State.nvSave_load]
  split_ifs with hj
  · obtain ⟨rfl, -⟩ := hj
    exact .inr ⟨v, hv, rfl⟩
  · exact h j

theorem State.saveAll_usable {s : State} (h : s.nv.Usable) {saves : List (NvKey × NvValue)}
    (hsaves : ∀ save ∈ saves, UsableValue save.1 save.2) : (s.saveAll saves).nv.Usable := by
  induction saves generalizing s with
  | nil => exact h
  | cons save saves ih =>
    obtain ⟨hsave, hrest⟩ := List.forall_mem_cons.1 hsaves
    exact ih (State.nvSave_usable h hsave) hrest

theorem EscState.changedSaves_usable (old new : EscState) :
    ∀ save ∈ old.changedSaves new, UsableValue save.1 save.2 := by
  intro save hsave
  simp only [EscState.changedSaves, List.mem_append, List.mem_ite_nil_left, List.mem_singleton] at hsave
  rcases hsave with (⟨-, rfl⟩ | ⟨-, rfl⟩) | ⟨-, rfl⟩
  · exact ⟨_, rfl⟩
  · exact ⟨_, rfl⟩
  · exact ⟨_, rfl⟩

/-- Every effect saves usable values. -/
theorem Does.saves_usable {e : EscState} {i : Instr} {f : Effect} (hd : Does e i f) :
    ∀ save ∈ f.saves, UsableValue save.1 save.2 := by
  cases hd with
  | configure newPin newProtocol => exact EscState.changedSaves_usable _ _
  | @label _ _ d =>
    intro save hsave
    obtain rfl := List.mem_singleton.1 hsave
    exact ⟨d, rfl⟩
  | _ => exact nofun

/-- Settles O47: an effect's saves are of usable values, and nothing else writes the store. -/
theorem everyStepKeepsTheStoreUsable : Obligations.EveryStepKeepsTheStoreUsable := by
  unfold Obligations.EveryStepKeepsTheStoreUsable
  intro s t h hstep
  rcases step_next hstep with rfl | ⟨w, rest, -, (rfl | rfl) | ⟨i, -, hexec⟩⟩
  · exact h
  · exact h
  · exact h
  · rcases exec_next hexec with ⟨-, rfl⟩ | ⟨-, f, hd, rfl⟩
    · exact h
    · rw [State.perform_nv]
      exact State.saveAll_usable (s := { s with inputs := rest }) h hd.saves_usable

end Sys2Proof.Machine
end

section
/-! ### Proofs of 20_memory.md and 44_esc_controller.md: saves, and configure -/

namespace Sys2Proof.Machine

/-! #### One save (20_memory.md R69) -/

/-- Settles O54: what one save leaves in a key is the value or what it held, by the store's answer. -/
theorem saveIsKeptOrLost : Obligations.SaveIsKeptOrLost := by
  unfold Obligations.SaveIsKeptOrLost
  intro s k v
  refine ⟨?_, fun j hj => ?_, s.nvSave_esc k v, s.nvSave_wire k v, s.nvSave_shadow k v, fun rest h => ?_,
    fun rest h => ?_⟩
  · rw [State.nvSave_load]
    split_ifs
    · exact .inl rfl
    · exact .inr rfl
  · rw [State.nvSave_load, if_neg (fun h => hj h.1)]
  · rw [State.nvSave_nv_of_answer h, if_pos rfl, NvStore.load_keep_same]
  · rw [State.nvSave_nv_of_answer h, if_neg Bool.false_ne_true]

/-! #### The saves of configure (R184, D13) -/

/-- A save made only where a field changed. -/
theorem State.saveAll_guarded_load (s : State) (same : Prop) [Decidable same] (k j : NvKey) (v : NvValue) :
    (s.saveAll (if same then [] else [(k, v)])).nv.load j =
      if j = k ∧ ¬ same ∧ s.answer 0 = true then some v else s.nv.load j := by
  by_cases h : same
  · simp [h]
  · rw [if_neg h, State.saveAll_cons, State.saveAll_nil, State.nvSave_load]
    simp [h]

theorem length_guarded {α : Type} (same : Prop) [Decidable same] (x : α) :
    (if same then [] else [x]).length = if same then 0 else 1 := by
  split_ifs <;> rfl

section ChangedSaves
variable (s : State) (old new : EscState)

/-- The pin's save takes the first answer. -/
theorem State.saveAll_changedSaves_load_pin : (s.saveAll (old.changedSaves new)).nv.load .pin =
    if new.pin ≠ old.pin ∧ s.answer 0 = true then some (.int new.pin.val) else s.nv.load .pin := by
  rw [EscState.changedSaves, State.saveAll_append, State.saveAll_append, State.saveAll_guarded_load,
    State.saveAll_guarded_load, State.saveAll_guarded_load]
  simp

/-- The protocol's save takes the next one. -/
theorem State.saveAll_changedSaves_load_protocol : (s.saveAll (old.changedSaves new)).nv.load .protocol =
    if new.protocol ≠ old.protocol ∧ s.answer (if new.pin = old.pin then 0 else 1) = true
      then some (.str (protocolName new.protocol)) else s.nv.load .protocol := by
  rw [EscState.changedSaves, State.saveAll_append, State.saveAll_append, State.saveAll_guarded_load,
    State.saveAll_guarded_load, State.saveAll_guarded_load]
  simp [State.saveAll_answer, length_guarded]

/-- The direction's save takes the last one. -/
theorem State.saveAll_changedSaves_load_direction : (s.saveAll (old.changedSaves new)).nv.load .direction =
    if new.direction ≠ old.direction ∧
        s.answer ((if new.pin = old.pin then 0 else 1) + if new.protocol = old.protocol then 0 else 1) = true
      then some (.str (directionName new.direction)) else s.nv.load .direction := by
  rw [EscState.changedSaves, State.saveAll_append, State.saveAll_append, State.saveAll_guarded_load,
    State.saveAll_guarded_load, State.saveAll_guarded_load]
  simp [State.saveAll_answer, length_guarded, Nat.add_comm]

theorem EscState.length_changedSaves : (old.changedSaves new).length = (if new.pin = old.pin then 0 else 1) +
    (if new.protocol = old.protocol then 0 else 1) + (if new.direction = old.direction then 0 else 1) := by
  rw [EscState.changedSaves, List.length_append, List.length_append, length_guarded, length_guarded, length_guarded]
end ChangedSaves

/-! #### What configure does -/

/-- An accepted `configure` does its effect. -/
theorem exec_configure_accepted (newPin : Option Pin) (newProtocol : Option Protocol) (s : State) :
    exec (.configure (newPin.map (fun p => (p.val : Int))) (newProtocol.map .known)) s =
      .next (s.perform (configureEffect newPin newProtocol s.esc)) := by
  rw [exec_eq_effect (i := .configure _ _) nofun, effect, configureAnswer, (validatePin_ok _ newPin).2 rfl,
    (validateProtocol_ok _ newProtocol).2 rfl]
  rfl

/-- A `configure` that answers is turned away, or does its effect. -/
theorem exec_configure_next {pin : Option Int} {protocol : Option ProtocolArg} {s t : State}
    (h : exec (.configure pin protocol) s = .next t) :
    t = s.respond .validationError ∨ ∃ newPin newProtocol, t = s.perform (configureEffect newPin newProtocol s.esc) := by
  change execConfigure pin protocol s = .next t at h
  rcases execConfigure_cases pin protocol s with ⟨hs, -⟩ | ⟨newPin, newProtocol, -, -, hs⟩
  · rw [hs] at h
    exact .inl (Host.Outcome.next.inj h).symm
  · rw [hs, perform_configureEffect] at h
    exact .inr ⟨newPin, newProtocol, (Host.Outcome.next.inj h).symm⟩

/-- Settles O19: either test turns the whole `configure` away. -/
theorem configureRejectsInvalidOperands : Obligations.ConfigureRejectsInvalidOperands := by
  unfold Obligations.ConfigureRejectsInvalidOperands
  intro pin protocol s hinvalid
  rcases execConfigure_cases pin protocol s with ⟨hs, -⟩ | ⟨newPin, newProtocol, rfl, rfl, -⟩
  · change ∃ r, execConfigure pin protocol s = _ ∧ _
    rw [hs]
    exact respond_answers s .validationError
  · exfalso
    rcases hinvalid with ⟨v, hv, hout⟩ | ⟨code, hcode⟩
    · obtain ⟨p, -, rfl⟩ := Option.map_eq_some_iff.1 hv
      have hp := p.isLt
      omega
    · obtain ⟨q, -, hq⟩ := Option.map_eq_some_iff.1 hcode
      cases hq

/-- Settles O20: `S`, the events and the answer are those of the effect. -/
theorem configureTakesEffect : Obligations.ConfigureTakesEffect := by
  unfold Obligations.ConfigureTakesEffect
  intro newPin newProtocol s
  refine ⟨_, exec_configure_accepted newPin newProtocol s, ?_⟩
  rw [State.perform_esc, State.perform_wire, State.perform_inputs, State.perform_response]
  exact ⟨rfl, rfl, rfl, congrArg (ite _ _) (idleThrottle_eq _), rfl, rfl, rfl, _, rfl, rspCode_rspWord _ _⟩

/-- Settles O21: the only pin events are those of a pin change. -/
theorem configureTouchesOnlyTheTwoPins : Obligations.ConfigureTouchesOnlyTheTwoPins := by
  unfold Obligations.ConfigureTouchesOnlyTheTwoPins
  intro pin protocol s t hwf h
  rcases exec_configure_next h with rfl | ⟨newPin, newProtocol, rfl⟩
  · exact ⟨fun _ _ => rfl, fun hne => absurd rfl hne⟩
  rw [State.perform_esc, State.perform_shadow]
  refine ⟨fun hsame q => ?_, fun hne => ⟨?_, ?_, fun q hold hnew => ?_⟩⟩
  · change newPin.getD s.esc.pin = s.esc.pin at hsame
    rw [configureEffect, pinChangeEvents, if_pos hsame]
    rfl
  · exact (read_pinChangeEvents hne hwf _).trans ((if_neg (Ne.symm hne)).trans (if_pos rfl))
  · exact (read_pinChangeEvents hne hwf _).trans (if_pos rfl)
  · exact (read_pinChangeEvents hne hwf q).trans ((if_neg hnew).trans (if_neg hold))

/-- The only direction that `configure` writes is Forward (D12). -/
theorem EscState.configured_direction_changed {e : EscState} {newPin : Option Pin} {newProtocol : Option Protocol}
    (h : (e.configured newPin newProtocol).direction ≠ e.direction) :
    (e.configured newPin newProtocol).direction = .forward := by
  simp only [EscState.configured] at h ⊢
  split_ifs at h ⊢
  · exact absurd rfl h
  · rfl
  · exact absurd rfl h

/-- So the direction's save is of Forward. -/
theorem State.saveAll_configured_load_direction (s : State) (e : EscState) (newPin : Option Pin)
    (newProtocol : Option Protocol) : (s.saveAll (e.changedSaves (e.configured newPin newProtocol))).nv.load .direction =
      if (e.configured newPin newProtocol).direction ≠ e.direction ∧
          s.answer ((if newPin.getD e.pin = e.pin then 0 else 1) + if newProtocol.getD e.protocol = e.protocol then 0 else 1) = true
        then some (.str "FORWARD") else s.nv.load .direction := by
  rw [State.saveAll_changedSaves_load_direction]
  by_cases hsame : (e.configured newPin newProtocol).direction = e.direction
  · rw [if_neg (fun hc => hc.1 hsame), if_neg (fun hc => hc.1 hsame)]
  · rw [EscState.configured_direction_changed hsame]
    rfl

/-- Settles O22: each key is left as it was or holds the new value, and is left where its field did not change. -/
theorem configureSavesOnlyChangedFields : Obligations.ConfigureSavesOnlyChangedFields := by
  unfold Obligations.ConfigureSavesOnlyChangedFields
  intro pin protocol s t h
  rcases exec_configure_next h with rfl | ⟨newPin, newProtocol, rfl⟩
  · exact ⟨fun _ => rfl, .inl rfl, fun _ => rfl, .inl rfl, fun _ => rfl, .inl rfl⟩
  rw [State.perform_nv, State.perform_esc, configureEffect, State.saveAll_changedSaves_load_pin,
    State.saveAll_changedSaves_load_protocol, State.saveAll_configured_load_direction]
  exact ⟨fun hsame => if_neg (fun hc => hc.1 hsame), (ite_eq_or_eq _ _ _).symm,
    fun hsame => if_neg (fun hc => hc.1 hsame), (ite_eq_or_eq _ _ _).symm,
    fun hsame => if_neg (fun hc => hc.1 hsame), (ite_eq_or_eq _ _ _).symm⟩

theorem EscState.configured_direction (e : EscState) (newPin : Option Pin) (newProtocol : Option Protocol) :
    (e.configured newPin newProtocol).direction =
      if newProtocol.getD e.protocol ≠ e.protocol ∧ newProtocol.getD e.protocol = .pwm then .forward else e.direction := by
  simp only [EscState.configured]
  split_ifs <;> simp_all

/-- Settles O23: the three saves in their order, each with the answer that the saves before it leave in front. -/
theorem configureSavesInOrder : Obligations.ConfigureSavesInOrder := by
  unfold Obligations.ConfigureSavesInOrder
  intro newPin newProtocol s
  refine ⟨_, exec_configure_accepted newPin newProtocol s, ?_⟩
  obtain ⟨-, hanswers, hdraws⟩ := s.perform_sameStore (configureEffect newPin newProtocol s.esc)
  rw [State.perform_nv, hanswers, hdraws, State.saveAll_saveAnswers, State.saveAll_drawCount, configureEffect,
    State.saveAll_changedSaves_load_pin, State.saveAll_changedSaves_load_protocol,
    State.saveAll_configured_load_direction, EscState.length_changedSaves, EscState.configured_direction]
  exact ⟨rfl, rfl, rfl, rfl, rfl⟩

/-- Operands that are absent or the settings in force change nothing (D14). -/
theorem configureEffect_current {e : EscState} {newPin : Option Pin} {newProtocol : Option Protocol}
    (hpin : newPin.getD e.pin = e.pin) (hprotocol : newProtocol.getD e.protocol = e.protocol) :
    configureEffect newPin newProtocol e = .stores e (some .ok) := by
  simp [configureEffect, EscState.configured, EscState.changedSaves, pinChangeEvents, Effect.stores, hpin, hprotocol]

/-- Settles O24: the effect of such a `configure` is its answer. -/
theorem configureWithCurrentSettingsDoesNothing : Obligations.ConfigureWithCurrentSettingsDoesNothing := by
  unfold Obligations.ConfigureWithCurrentSettingsDoesNothing
  intro s pin protocol hpin hprotocol
  obtain ⟨newPin, rfl, hp⟩ : ∃ newPin : Option Pin, pin = newPin.map (fun p => (p.val : Int)) ∧
      newPin.getD s.esc.pin = s.esc.pin := by
    rcases hpin with rfl | rfl
    · exact ⟨none, rfl, rfl⟩
    · exact ⟨some s.esc.pin, rfl, rfl⟩
  obtain ⟨newProtocol, rfl, hq⟩ : ∃ newProtocol : Option Protocol, protocol = newProtocol.map .known ∧
      newProtocol.getD s.esc.protocol = s.esc.protocol := by
    rcases hprotocol with rfl | rfl
    · exact ⟨none, rfl, rfl⟩
    · exact ⟨some s.esc.protocol, rfl, rfl⟩
  rw [exec_configure_accepted, configureEffect_current hp hq, State.perform_stores]
  exact respond_answers s .ok

/-! #### Saves across a reset (70_reset_and_hazards.md R273) -/

theorem loadProtocol_of_stored {nv : NvStore} {q : Protocol} (h : nv.load .protocol = some (.str (protocolName q))) :
    loadProtocol nv = q := by
  rw [loadProtocol, h]
  simp

theorem NvStore.eq_of_load {a b : NvStore} (h : ∀ k, a.load k = b.load k) : a = b := by
  obtain ⟨pin, protocol, direction⟩ := a
  obtain rfl : pin = b.pin := h .pin
  obtain rfl : protocol = b.protocol := h .protocol
  obtain rfl : direction = b.direction := h .direction
  rfl

/-- The next three answers, all alike. -/
theorem State.answer_of_three {s : State} {b : Bool} {rest : List Bool} (h : s.saveAnswers = b :: b :: b :: rest) {k : Nat}
    (hk : k < 3) : s.answer k = b := by
  rw [State.answer, h]
  interval_cases k <;> rfl

/-- Saves that are all lost leave the store whole. -/
theorem State.saveAll_changedSaves_lost {s : State} {rest : List Bool} (h : s.saveAnswers = false :: false :: false :: rest)
    (old new : EscState) : (s.saveAll (old.changedSaves new)).nv = s.nv := by
  have hlost : ∀ {k}, k < 3 → s.answer k ≠ true := fun hk => by rw [State.answer_of_three h hk]; exact Bool.false_ne_true
  refine NvStore.eq_of_load fun k => ?_
  cases k with
  | pin => rw [State.saveAll_changedSaves_load_pin, if_neg (fun hc => hlost (by decide) hc.2)]
  | protocol =>
    rw [State.saveAll_changedSaves_load_protocol, if_neg (fun hc => hlost (by split_ifs <;> decide) hc.2)]
  | direction =>
    rw [State.saveAll_changedSaves_load_direction, if_neg (fun hc => hlost (by split_ifs <;> decide) hc.2)]

/-- Settles O55: reset reads the store that `configure` left, the new values of kept saves or the old store. -/
theorem keptSettingsSurviveReset : Obligations.KeptSettingsSurviveReset := by
  unfold Obligations.KeptSettingsSurviveReset
  intro s p q b rest hanswers hp hq
  refine ⟨_, _, _, exec_configure_accepted (some p) (some q) s, ?_, ?_, exec_reset _, exec_reset s, ?_, ?_⟩
  · rw [State.perform_esc]; rfl
  · rw [State.perform_esc]; rfl
  · rintro rfl
    have hkept : ∀ {k}, k < 3 → s.answer k = true := State.answer_of_three hanswers
    have hpin : (s.perform (configureEffect (some p) (some q) s.esc)).nv.load .pin = some (.int p.val) := by
      rw [State.perform_nv, configureEffect, State.saveAll_changedSaves_load_pin]
      exact if_pos ⟨hp, hkept (by decide)⟩
    have hprotocol : (s.perform (configureEffect (some p) (some q) s.esc)).nv.load .protocol =
        some (.str (protocolName q)) := by
      rw [State.perform_nv, configureEffect, State.saveAll_changedSaves_load_protocol]
      exact if_pos ⟨hq, hkept (by split_ifs <;> decide)⟩
    have hload := loadProtocol_of_stored hprotocol
    refine ⟨loadPin_of_stored hpin, hload, rfl, ?_⟩
    rw [← idleThrottle_eq q]
    exact congrArg idleThrottle hload
  · rintro rfl
    have hnv : (s.perform (configureEffect (some p) (some q) s.esc)).nv = s.nv :=
      (State.perform_nv _ _).trans (State.saveAll_changedSaves_lost hanswers _ _)
    exact congrArg bootState hnv

/-! #### Integers and saturated operands (R201, 30_encoding.md R104) -/

theorem clamp_of_mem {v lo hi : Int} (hlo : lo ≤ v) (hhi : v ≤ hi) : clamp v lo hi = v := by
  rw [clamp, if_neg (by omega), if_neg (by omega)]

theorem clamp_mono {v w : Int} (lo hi : Int) (hrange : lo ≤ hi) (h : v ≤ w) : clamp v lo hi ≤ clamp w lo hi := by
  unfold clamp
  split_ifs <;> omega

/-- Settles O56: a clamped value is in range, so clamping it again leaves it. -/
theorem clampIsBoundedMonotoneIdempotent : Obligations.ClampIsBoundedMonotoneIdempotent := by
  unfold Obligations.ClampIsBoundedMonotoneIdempotent
  intro lo hi hrange v w
  obtain ⟨hlo, hhi⟩ := clamp_mem v lo hi hrange
  exact ⟨hlo, hhi, clamp_mono lo hi hrange, clamp_of_mem hlo hhi, clamp_of_mem⟩

/-- Saturating to a wider range first changes no clamped value. -/
theorem clamp_saturated (v : Int) {lo hi lo' hi' : Int} (hlo : lo' ≤ lo) (hrange : lo ≤ hi) (hhi : hi ≤ hi') :
    clamp (max lo' (min v hi')) lo hi = clamp v lo hi := by
  unfold clamp
  split_ifs <;> omega

theorem clampThrottle_saturated (p : Protocol) (v : Int) :
    clampThrottle p (max (-8388608) (min v 8388607)) = clampThrottle p v := by
  rw [clampThrottle, clampThrottle, throttleRange_eq]
  split
  · rw [clamp_saturated v (by decide) (by decide) (by decide)]
  · rw [clamp_saturated v (by decide) (by decide) (by decide)]

/-- No pin lies outside the 8-bit field. -/
theorem pinOfInt_saturated (v : Int) : pinOfInt (max (-128) (min v 127)) = pinOfInt v := by
  ext p
  have hp := p.isLt
  rw [pinOfInt_eq_some, pinOfInt_eq_some]
  omega

/-- Settles O26: the clamp and the pin test see no difference. -/
theorem saturatedOperandsGiveTheSameOutcome : Obligations.SaturatedOperandsGiveTheSameOutcome := by
  unfold Obligations.SaturatedOperandsGiveTheSameOutcome
  refine fun s => ⟨fun v => ?_, fun v protocol => ?_⟩
  · rw [exec_setThrottle, exec_setThrottle, clampThrottle_saturated]
  · rw [exec_eq_effect (i := .configure _ _) nofun, exec_eq_effect (i := .configure _ _) nofun, effect, effect, configureAnswer, configureAnswer, validatePin,
      validatePin, pinOfInt_saturated]

/-! #### disarm, twice (R191) -/

/-- Settles O29: the second LOW finds the pin LOW and the rest as `disarm` leaves it. -/
theorem disarmIsIdempotentOnState : Obligations.DisarmIsIdempotentOnState := by
  unfold Obligations.DisarmIsIdempotentOnState
  intro s hwf
  refine ⟨_, _, exec_disarm s, exec_disarm _, rfl, rfl, rfl, rfl, rfl, rfl, fun q => ?_⟩
  change ((s.shadow.record (.level s.esc.pin .low)).record (.level s.esc.pin .low)).read q =
    (s.shadow.record (.level s.esc.pin .low)).read q
  rw [PinSpace.read_record_level _ _ _ _ (PinSpace.record_wf _ _ hwf), PinSpace.read_record_level _ _ _ _ hwf,
    PinSpace.read_record_level _ _ _ _ hwf, if_pos (rfl : s.esc.pin = s.esc.pin)]
  split_ifs <;> rfl

end Sys2Proof.Machine
end

section
/-! ### Proofs of 45_control_loop.md and 30_encoding.md R114: the tick, and the FRAME rows -/

namespace Sys2Proof.Machine

/-! #### The tick (R210 to R212) -/

/-- The idle tick clears the response port (log 5). -/
theorem exec_tick_idle (s : State) (h : s.esc.armed = false ∨ s.esc.throttle = 0#11) : exec .tick s = .next s.silent := by
  rw [exec_tick_eq]
  rcases tickWith_cases parameters s with ⟨-, ht⟩ | ⟨ha, h0, -⟩
  · exact ht
  · simp [ha, h0] at h

/-- Settles O32: nothing is sent, and the pin is LOW because the invariants say so. -/
theorem idleTickSendsNothing : Obligations.IdleTickSendsNothing := by
  unfold Obligations.IdleTickSendsNothing
  exact fun s h => ⟨exec_tick_idle s h, fun hinv => by rw [hinv.pinLow]⟩

theorem tickEffect_transmits {e : EscState} (ha : e.armed = true) (h0 : e.throttle ≠ 0#11)
    (hw : e.protocol = .pwm → 1000 ≤ e.throttle.toNat ∧ e.throttle.toNat ≤ 2000) :
    tickEffect parameters e = some (.sends e e.tickEvents) := by
  rw [tickEffect, if_pos ((EscState.transmits_iff e).2 ⟨ha, h0⟩), EscState.tickEvents]
  cases hg : gradeOf e.protocol with
  | some g => rfl
  | none =>
    have hwidth : pulseWidthOf e.throttle = some ⟨e.throttle.toNat, hw ((gradeOf_eq_none _).1 hg)⟩ := dif_pos _
    rw [hwidth]
    rfl

/-- The transmitting tick, whole: its events on the wire and the pins, and an empty response port. -/
theorem exec_tick_transmits {s : State} (ha : s.esc.armed = true) (h0 : s.esc.throttle ≠ 0#11)
    (hw : s.esc.protocol = .pwm → 1000 ≤ s.esc.throttle.toNat ∧ s.esc.throttle.toNat ≤ 2000) :
    exec .tick s = .next { s with
      wire := s.wire ++ s.esc.tickEvents
      shadow := s.esc.tickEvents.foldl PinSpace.record s.shadow
      response := none } := by
  rw [exec_tick_eq, tickWith_eq_effect, tickEffect_transmits ha h0 hw]
  rfl

theorem EscState.tickEvents_pwm {e : EscState} (hp : e.protocol = .pwm) :
    e.tickEvents = [.level e.pin .high, .wait (e.throttle.toNat * 1000), .level e.pin .low,
      .wait ((20000 - e.throttle.toNat) * 1000)] := by
  rw [EscState.tickEvents, hp]
  rfl

theorem EscState.tickEvents_dshot {e : EscState} {g : Grade} (hg : gradeOf e.protocol = some g) :
    e.tickEvents = frameEvents e.pin (timing g) (encodeFrame e.throttle) := by
  rw [EscState.tickEvents, hg]

/-- Settles O33: the tick's events are one pulse, which ends LOW. -/
theorem pwmTickSendsOnePulse : Obligations.PwmTickSendsOnePulse := by
  unfold Obligations.PwmTickSendsOnePulse
  intro s ha hp hlo hhi
  have h0 : s.esc.throttle ≠ 0#11 := by
    intro h
    rw [h] at hlo
    exact absurd hlo (by decide)
  refine ⟨_, _, exec_tick_transmits ha h0 (fun _ => ⟨hlo, hhi⟩), EscState.tickEvents_pwm hp, ?_,
    fun hwf => tickEvents_endsLow s.esc s.shadow hwf⟩
  rw [EscState.tickEvents_pwm hp]
  simp only [traceDuration, WireEvent.duration, List.map_cons, List.map_nil, List.sum_cons, List.sum_nil]
  omega

theorem exec_tick_dshot {s : State} {g : Grade} (hg : gradeOf s.esc.protocol = some g) (ha : s.esc.armed = true)
    (h0 : s.esc.throttle ≠ 0#11) : exec .tick s = .next { s with
      wire := s.wire ++ frameEvents s.esc.pin (timing g) (encodeFrame s.esc.throttle)
      shadow := s.esc.tickEvents.foldl PinSpace.record s.shadow
      response := none } := by
  rw [← EscState.tickEvents_dshot hg]
  exact exec_tick_transmits ha h0 (fun hp => absurd hp (ne_pwm_of_gradeOf hg))

/-- Settles O34: the tick's events are one frame, which ends LOW. -/
theorem dshotTickSendsOneFrame : Obligations.DshotTickSendsOneFrame := by
  unfold Obligations.DshotTickSendsOneFrame
  intro s g ha h0 hg
  exact ⟨_, exec_tick_dshot hg ha h0, fun hwf => tickEvents_endsLow s.esc s.shadow hwf⟩

/-! #### The FRAME rows (R114; logs 1, 2) -/

theorem exec_frame_tick {v : Value} {s : State}
    (h : s.esc.armed = true ∧ s.esc.throttle = v ∧ v ≠ 0#11 ∧ s.esc.protocol ≠ .pwm) :
    exec (.frame v) s = exec .tick s := by
  rcases frameWith_cases parameters v s with ⟨-, -, -, -, hs⟩ | ⟨hno, -⟩
  · exact hs
  · exact absurd h hno

theorem exec_frame_silent {v : Value} {s : State}
    (h : ¬ (s.esc.armed = true ∧ s.esc.throttle = v ∧ v ≠ 0#11 ∧ s.esc.protocol ≠ .pwm)) :
    exec (.frame v) s = .next s.silent := by
  rcases frameWith_cases parameters v s with ⟨ha, hv, h0, hp, -⟩ | ⟨-, hs⟩
  · exact absurd ⟨ha, hv, h0, hp⟩ h
  · exact hs

theorem exec_frameMotorStop_brake {s : State} (h : s.esc.protocol ≠ .pwm ∧ s.esc.armed = true) :
    exec .frameMotorStop s = exec .brake s := by
  rcases frameMotorStopWith_cases parameters s with ⟨-, -, hs⟩ | ⟨hno, -⟩
  · exact hs
  · simp [h] at hno

theorem exec_frameMotorStop_silent {s : State} (h : s.esc.protocol = .pwm ∨ s.esc.armed = false) :
    exec .frameMotorStop s = .next s.silent := by
  rcases frameMotorStopWith_cases parameters s with ⟨hp, ha, -⟩ | ⟨-, hs⟩
  · simp [hp, ha] at h
  · exact hs

theorem frameDirectionWith_dshot {s : State} (d : Direction) (hp : s.esc.protocol ≠ .pwm) :
    frameDirectionWith parameters d s = exec (.setDirection (.known d)) s := by
  rcases frameDirectionWith_cases parameters d s with ⟨-, hs⟩ | ⟨hpwm, -⟩
  · exact hs
  · exact absurd hpwm hp

theorem frameDirectionWith_pwm {s : State} (d : Direction) (hp : s.esc.protocol = .pwm) :
    frameDirectionWith parameters d s = .next s.silent := by
  rcases frameDirectionWith_cases parameters d s with ⟨hdshot, -⟩ | ⟨-, hs⟩
  · exact absurd hp hdshot
  · exact hs

/-- Settles O38: each row is its event where that event sends the frame, and only clears the response port elsewhere. -/
theorem frameRowsAreStepsOfTheHardware : Obligations.FrameRowsAreStepsOfTheHardware := by
  unfold Obligations.FrameRowsAreStepsOfTheHardware
  exact fun s => ⟨fun v => ⟨exec_frame_tick, exec_frame_silent⟩, exec_frameMotorStop_brake, exec_frameMotorStop_silent,
    fun hp => ⟨frameDirectionWith_dshot .forward hp, frameDirectionWith_dshot .reverse hp⟩,
    fun hp => ⟨frameDirectionWith_pwm .forward hp, frameDirectionWith_pwm .reverse hp⟩⟩

/-- Settles O37: each row is its event (O38), whose events are one frame or one burst (O34, O31, O30). -/
theorem frameRowsTransmit : Obligations.FrameRowsTransmit := by
  unfold Obligations.FrameRowsTransmit
  intro s g hg
  have hdshot := ne_pwm_of_gradeOf hg
  obtain ⟨hframe, hmotorStop, -, hdirections, -⟩ := frameRowsAreStepsOfTheHardware s
  obtain ⟨hforward, hreverse⟩ := hdirections hdshot
  obtain ⟨-, -, -, hbrake⟩ := brakeMeaning
  obtain ⟨-, -, -, hsetDirection⟩ := setDirectionMeaning
  refine ⟨fun v h0 hv ha => ?_, fun ha => ?_, ?_, ?_⟩
  · subst hv
    rw [(hframe _).1 ⟨ha, rfl, h0, hdshot⟩]
    exact ⟨_, exec_tick_dshot hg ha h0, fun hwf => (tickEvents_endsLow s.esc s.shadow hwf).2⟩
  · rw [hmotorStop ⟨hdshot, ha⟩]
    exact hbrake s g hg ha
  · obtain ⟨t, ht, hesc, hwire, hanswers, hpin, hprotocol, hdirection, -, -, hothers, hinputs, r, hr, hcode⟩ :=
      hsetDirection .forward s g hg
    exact ⟨t, r, hforward.trans ht, hesc, hwire, hr, hcode, hothers, hinputs, hanswers, hpin, hprotocol, hdirection⟩
  · obtain ⟨t, ht, hesc, hwire, hanswers, hpin, hprotocol, hdirection, -, -, hothers, hinputs, r, hr, hcode⟩ :=
      hsetDirection .reverse s g hg
    exact ⟨t, r, hreverse.trans ht, hesc, hwire, hr, hcode, hothers, hinputs, hanswers, hpin, hprotocol, hdirection⟩

end Sys2Proof.Machine
end
